-- ==== Sys2Proof/Word.lean ====
section
/-! DEFINITION. The widths of 00_scope R5: bytes, 32-bit words and 34-bit host offsets. -/

namespace Sys2Proof

/-- An 8-bit byte, values 0..255 (R5). -/
abbrev Byte := BitVec 8

/-- A 32-bit unsigned word: a CSR, a count, a length, an index, a table entry, the command word (R5). -/
abbrev Word := BitVec 32

/-- A host offset, 34 bits unsigned (R5, R61). -/
abbrev Offset := BitVec 34

/-- 2^32 − 1, the largest value of a 32-bit register and the ceiling of ERRINFO in R181. -/
def wordMax : Nat := 4294967295

end Sys2Proof
end

