-- ==== Sys2Proof/Config.lean ====
section
/-! DEFINITION. What an implementation fixes (00_scope R4) and the free values of the model (R7, R113): opaque
constants without a body, so that no proof can lean on a value of theirs. -/

namespace Sys2Proof

/-- The stores whose contents the spec can leave unspecified or lets a host read as a draw (R7, R71). -/
inductive StoreName where
  | ibuf
  | obuf
  | hist
  | first
  | short
  | tblE
  | tblD
deriving DecidableEq, Repr

/-- IBUF_BYTES − 1 of the hardware at hand: any value that keeps 1 ≤ IBUF_BYTES ≤ 2^32−1 (R4, `OPEN`). Log entry 1. -/
opaque Config.ibufBelow : Fin (4294967294 + 1)

/-- OBUF_BYTES − 1 of the hardware at hand (R4, `OPEN`). Log entry 1. -/
opaque Config.obufBelow : Fin (4294967294 + 1)

/-- RLE_RUN_CAP − 4 of the hardware at hand: any value that keeps 4 ≤ RLE_RUN_CAP ≤ 259 (R4). Log entry 1. -/
opaque Config.runCapBelow : Fin (255 + 1)

/-- IBUF_BYTES (R4). -/
def Config.ibufBytes : Nat := Config.ibufBelow.val + 1

/-- OBUF_BYTES (R4). -/
def Config.obufBytes : Nat := Config.obufBelow.val + 1

/-- RLE_RUN_CAP (R4). -/
def Config.runCap : Nat := Config.runCapBelow.val + 4

/-- FREE VALUE: the byte drawn at byte address `loc` of store `st` in the step numbered `epoch` (R7, R71). A step
draws once per location; two steps, or two locations, draw independently. Log entry 2. -/
opaque Config.drawByte (epoch : Nat) (st : StoreName) (loc : Nat) : Byte

/-- FREE VALUE: how many host steps pass between the acceptance made in step `epoch` and its completion step
(R113, R220: finitely many, the number not specified). Log entry 3. -/
opaque Config.latency (epoch : Nat) : Nat

end Sys2Proof
end

