-- ==== Sys2Proof/Machine/State.lean ====
section
/-! DEFINITION. The state of the machine: the record of 10_state R48, the host agent of 30_encoding R100, and the
two model fields that index the free values; the faults and refusals; the state after power-on reset (R210). -/

namespace Sys2Proof.Machine

open Sys2Proof

/-- The contents of a store: (index, value) pairs with strictly rising indices. An index that is not listed is
UNSPECIFIED (00_scope R7): each read of it is a draw. `Memory 8` is a list of `Host.Cell`. -/
abbrev Memory (w : Nat) := List (Nat × BitVec w)

/-- A Move-To-Front table: 256 bytes (10_state R40). -/
abbrev MtfTable := Vector Byte 256

/-- The four host address spaces (20_memory R60). -/
inductive Space where
  | csr
  | ibuf
  | obuf
  | work
deriving DecidableEq, Repr

/-- The widths of the host operations of 30_encoding R100: `.b`, `.h`, `.w`. -/
inductive Width where
  | byte
  | half
  | word
deriving DecidableEq, Repr

/-- The host operations of 30_encoding R100, labels resolved to the index of the operation they name
(Machine/Assembly.lean does that). -/
inductive HostOp where
  /-- `wr.b/h/w SPACE, OFF, V`. -/
  | wr (sp : Space) (off : Offset) (w : Width) (v : Word)
  /-- `rd.b/h/w SPACE, OFF`. -/
  | rd (sp : Space) (off : Offset) (w : Width)
  /-- `andi V`. -/
  | andi (v : Word)
  /-- `bnz LABEL`. -/
  | bnz (target : Nat)
  /-- `bz LABEL`. -/
  | bz (target : Nat)
  /-- `halt`. -/
  | halt
deriving DecidableEq, Repr

/-- The host agent (00_scope R2, 30_encoding R100): its program, where it stands in it, and its scratch register. -/
structure HostAgent where
  prog : List HostOp
  pc : Nat
  acc : Word
deriving DecidableEq, Repr

/-- The implementation parameters (00_scope R4), constant for the life of the hardware (10_state R39): what
CAP_IBUF, CAP_OBUF and RUN_CAP read. -/
structure Params where
  ibufBytes : Nat
  obufBytes : Nat
  runCap : Nat
deriving DecidableEq, Repr

/-- STATUS (10_state R24). The reserved bits [31:6] read 0. -/
structure Status where
  busy : Bool
  done : Bool
  err : Bool
  cmdOvr : Bool
  wrBusy : Bool
  rleActive : Bool
deriving DecidableEq, Repr

/-- The two interrupt causes: bit 0 DONE, bit 1 ERR (10_state R37, R38). -/
structure IrqBits where
  done : Bool
  err : Bool
deriving DecidableEq, Repr

/-- The variable control and status registers (10_state §2). CTRL always reads 0 (R23) and ID, VERSION are
constants (R21), so they hold nothing. -/
structure Csr where
  status : Status
  cmd : Word
  len : Word
  primary : Word
  outLen : Word
  consumed : Word
  errcode : Byte
  errinfo : Word
  rleMax : Word
  pendingByte : Byte
  pendingCount : BitVec 9
  rleSout : Word
  rleCaplim : Word
  mtfSym : Byte
  irqEn : IrqBits
  irqStatus : IrqBits
deriving DecidableEq, Repr

/-- The whole state (10_state R48), the host agent beside the engine, and the model's own `delay` and `epoch`. -/
structure State where
  params : Params
  csr : Csr
  hist : Memory 32
  first : Memory 32
  tblE : MtfTable
  tblD : MtfTable
  ibuf : Memory 8
  obuf : Memory 8
  short : Memory 32
  host : HostAgent
  /-- MODEL's field: host steps still to pass before the accepted command's completion step (R113). -/
  delay : Nat
  /-- MODEL's field: the number of the step, which indexes the free values (R7, R71, R113). -/
  epoch : Nat
deriving DecidableEq, Repr

/-- Why the machine stops. -/
inductive Fault where
  /-- Raised by the host agent's step when its access gets a bus error (20_memory R66, R67): "In a model it is a
  fault of the host program that made the access, and the faulted run is never final" (R69). Safe: the run stops. -/
  | busError (sp : Space) (off : Offset) (w : Width) (write : Bool)
deriving DecidableEq, Repr

/-- Why an instruction has no meaning. -/
inductive Refusal where
  /-- Raised by `exec` for a command the model gives no meaning yet. No arm raises it: all fourteen have one. Safe. -/
  | notModelled (mnemonic : String)
deriving DecidableEq, Repr

/-- The identity table, `T[i] = i` (10_state R40). -/
def MtfTable.identity : MtfTable :=
  ⟨((List.range 256).map (BitVec.ofNat 8)).toArray, by simp⟩

/-- STATUS after a reset (R210). -/
def Status.reset : Status := ⟨false, false, false, false, false, false⟩

/-- The reset values of the CSR table (10_state §2, R210). -/
def Csr.reset : Csr where
  status := Status.reset
  cmd := 0#32
  len := 0#32
  primary := 0#32
  outLen := 0#32
  consumed := 0#32
  errcode := 0#8
  errinfo := 0#32
  rleMax := 0#32
  pendingByte := 0#8
  pendingCount := 0#9
  rleSout := 0#32
  rleCaplim := 0#32
  mtfSym := 0#8
  irqEn := ⟨false, false⟩
  irqStatus := ⟨false, false⟩

/-- The state after power-on of a BTE built with parameters `p` (R210): the CSRs at their table values, identity
tables, every buffer and LF table unspecified, no command in flight, no host program loaded. -/
def State.resetWith (p : Params) : State where
  params := p
  csr := Csr.reset
  hist := []
  first := []
  tblE := MtfTable.identity
  tblD := MtfTable.identity
  ibuf := []
  obuf := []
  short := []
  host := ⟨[], 0, 0#32⟩
  delay := 0
  epoch := 0

/-- The parameters of the hardware at hand (R4). -/
def Params.ofConfig : Params := ⟨Config.ibufBytes, Config.obufBytes, Config.runCap⟩

/-- The state after power-on reset (R210). -/
def State.reset : State := State.resetWith Params.ofConfig

end Sys2Proof.Machine
end

