-- ==== Sys2Proof/Machine/Flags.lean ====
section
/-! DEFINITION. The BTE's only flags: STATUS (10_state R24) and the interrupt bits (R37, R38; 60_exceptions R190,
R191), the words they read as, and every way they change. -/

namespace Sys2Proof.Machine

open Sys2Proof

/-- STATUS as the host reads it (10_state R24); bits [31:6] read 0 (R22). -/
def Status.toWord (f : Status) : Word :=
  (BitVec.ofBool f.rleActive ++ BitVec.ofBool f.wrBusy ++ BitVec.ofBool f.cmdOvr ++ BitVec.ofBool f.err ++
    BitVec.ofBool f.done ++ BitVec.ofBool f.busy).setWidth 32

/-- Acceptance: BUSY ← 1, DONE ← 0, ERR ← 0 (40_control R111). -/
def Status.accepted (f : Status) : Status := { f with busy := true, done := false, err := false }

/-- The end of a completion step: DONE ← 1, BUSY ← 0, and ERR as given (40_control R112, 60_exceptions R184). -/
def Status.completed (f : Status) (err : Bool) : Status := { f with busy := false, done := true, err := err }

/-- A host write of `v` to STATUS affects only the W1C bits 3 and 4 (10_state R24). -/
def Status.writeOneClears (f : Status) (v : Word) : Status :=
  { f with cmdOvr := f.cmdOvr && !v.getLsbD 3, wrBusy := f.wrBusy && !v.getLsbD 4 }

/-- IRQ_EN or IRQ_STATUS as the host reads it: bit 0 DONE, bit 1 ERR, the rest 0 (10_state R37, R38, R22). -/
def IrqBits.toWord (q : IrqBits) : Word :=
  (BitVec.ofBool q.err ++ BitVec.ofBool q.done).setWidth 32

/-- A host write of `v` to IRQ_EN: bits 0 and 1 are stored, the reserved bits ignored (10_state R37, R22). -/
def IrqBits.ofWord (v : Word) : IrqBits := ⟨v.getLsbD 0, v.getLsbD 1⟩

/-- A host write of `v` to IRQ_STATUS clears each bit written as 1 (60_exceptions R191). -/
def IrqBits.writeOneClears (q : IrqBits) (v : Word) : IrqBits :=
  ⟨q.done && !v.getLsbD 0, q.err && !v.getLsbD 1⟩

/-- A completion sets DONE_IP, and ERR_IP if it is an error; the bits are sticky (60_exceptions R190, 10_state R38). -/
def IrqBits.raised (q : IrqBits) (err : Bool) : IrqBits := ⟨true, q.err || err⟩

/-- The interrupt output, level-sensitive and active high (60_exceptions R190). -/
def State.irq (s : State) : Bool :=
  (s.csr.irqStatus.done && s.csr.irqEn.done) || (s.csr.irqStatus.err && s.csr.irqEn.err)

end Sys2Proof.Machine
end

