-- ==== Sys2Proof/Machine/Ops.lean ====
section
/-! DEFINITION. The named operations over the stores and the registers that the commands share: reading and
writing a store, acceptance (40_control R111), the two ends of a completion step (R112, and 60_exceptions R184,
the BTE's form of taking an exception; R186: there is no return from it), and the reset operations (70_reset R211,
R212). -/

namespace Sys2Proof.Machine

open Sys2Proof

/-- The content of index `a`, or none where it is unspecified (00_scope R7). -/
def Memory.read? {w : Nat} : Memory w → Nat → Option (BitVec w)
  | [], _ => none
  | (k, v) :: m, a => if k = a then some v else Memory.read? m a

/-- The pairs that hold the values `vs` at the indices from `a` on. -/
def Memory.cells {w : Nat} (a : Nat) : List (BitVec w) → Memory w
  | [] => []
  | v :: vs => (a, v) :: Memory.cells (a + 1) vs

/-- Store the values `vs` at the indices `a`, `a + 1`, …: `M[a..a + |vs|) ← vs`. Every store of the model goes
through it. -/
def Memory.write {w : Nat} (m : Memory w) (a : Nat) (vs : List (BitVec w)) : Memory w :=
  m.filter (fun c => decide (c.1 < a)) ++ Memory.cells a vs ++
    m.filter (fun c => decide (a + vs.length ≤ c.1))

/-- Every index unspecified: `M[0..) ← unspecified` (00_scope R7). -/
def Memory.unspecified {w : Nat} : Memory w := []

/-- Indices strictly rising from `lo` on and below `size`. -/
def Memory.wfFrom {w : Nat} (lo size : Nat) : Memory w → Bool
  | [] => true
  | (k, _) :: m => decide (lo ≤ k) && decide (k < size) && Memory.wfFrom (k + 1) size m

/-- The canonical form of a store of `size` entries: strictly rising indices, all of them in range. No listed entry
can equal an unlisted one, since an unlisted one has no value. -/
def Memory.wf {w : Nat} (size : Nat) (m : Memory w) : Bool := Memory.wfFrom 0 size m

/-- The error codes of 60_exceptions R180 that a command can end with. -/
inductive ErrCode where
  | illegalOpcode
  | reservedField
  | lenRange
  | primaryRange
  | outOverflow
  | rleNotActive
  | rleMaxRange
deriving DecidableEq, Repr

/-- The value ERRCODE holds (60_exceptions R180). -/
def ErrCode.toByte : ErrCode → Byte
  | .illegalOpcode => 0x01#8
  | .reservedField => 0x02#8
  | .lenRange => 0x03#8
  | .primaryRange => 0x04#8
  | .outOverflow => 0x05#8
  | .rleNotActive => 0x06#8
  | .rleMaxRange => 0x07#8

/-- `complete(out_len, consumed)` of 40_control R112: the successful end of a completion step. It is the end of the
step, so it also advances the model's `epoch`. -/
def State.complete (s : State) (outLen consumed : Nat) : State :=
  { s with
    csr := { s.csr with
      outLen := BitVec.ofNat 32 outLen
      consumed := BitVec.ofNat 32 consumed
      errcode := 0x00#8
      errinfo := 0#32
      status := s.csr.status.completed false
      irqStatus := s.csr.irqStatus.raised false }
    epoch := s.epoch + 1 }

/-- `error_completion(code, info)` of 60_exceptions R184: how every command error is taken. Nothing else is saved
and control goes nowhere: the engine becomes idle. It advances the model's `epoch` as `State.complete` does. -/
def State.errorCompletion (s : State) (code : ErrCode) (info : Word) : State :=
  { s with
    csr := { s.csr with
      outLen := 0#32
      consumed := 0#32
      errcode := code.toByte
      errinfo := info
      status := s.csr.status.completed true
      irqStatus := s.csr.irqStatus.raised true }
    epoch := s.epoch + 1 }

/-- ERRINFO of OUT_OVERFLOW: min(required output length, 2^32 − 1) (60_exceptions R181). -/
def overflowInfo (required : Nat) : Word := BitVec.ofNat 32 (min required wordMax)

/-- Acceptance of word `w` (40_control R111). The number of host steps before the completion step is drawn here
(R113; log entry 3). -/
def State.accept (s : State) (w : Word) : State :=
  { s with
    csr := { s.csr with cmd := w, status := s.csr.status.accepted }
    delay := Config.latency s.epoch }

/-- `OBUF[a..a + |bs|) ← bs`. -/
def State.writeObuf (s : State) (a : Nat) (bs : List Byte) : State :=
  { s with obuf := s.obuf.write a bs }

/-- `OBUF[0..OBUF_BYTES) ← unspecified` (60_exceptions R185). -/
def State.forgetObuf (s : State) : State :=
  { s with obuf := Memory.unspecified }

/-- The 32-bit entries of a table of naturals, each of which fits (00_scope R10). -/
def toWords (ns : List Nat) : List Word := ns.map (BitVec.ofNat 32)

/-- `HIST[0..256) ← h` and `FIRST[0..256) ← f` (42_bwt_inverse R141, R143, R144, R147). -/
def State.writeLfTables (s : State) (h f : List Nat) : State :=
  { s with hist := s.hist.write 0 (toWords h), first := s.first.write 0 (toWords f) }

/-- `SHORT[0..n) ← sc` (42_bwt_inverse R147). -/
def State.writeShort (s : State) (sc : List Nat) : State :=
  { s with short := s.short.write 0 (toWords sc) }

/-- Set the streaming encoder's state (10_state R46): active, pb, pc, sout; RLE_CAPLIM is left alone. -/
def State.setStream (s : State) (active : Bool) (pb : Byte) (pc sout : Nat) : State :=
  { s with
    csr := { s.csr with
      status := { s.csr.status with rleActive := active }
      pendingByte := pb
      pendingCount := BitVec.ofNat 9 pc
      rleSout := BitVec.ofNat 32 sout } }

/-- Latch `max` of the active stream (10_state R35). -/
def State.setCaplim (s : State) (max : Word) : State :=
  { s with csr := { s.csr with rleCaplim := max } }

/-- Set TBL_E. -/
def State.setTblE (s : State) (t : MtfTable) : State := { s with tblE := t }

/-- Set TBL_D. -/
def State.setTblD (s : State) (t : MtfTable) : State := { s with tblD := t }

/-- `csr.MTF_SYM ← zext_32(v)`: the register has 8 bits, the rest read 0 (10_state R36). -/
def State.setMtfSym (s : State) (v : Byte) : State :=
  { s with csr := { s.csr with mtfSym := v } }

/-- Soft reset (70_reset R211, R212, R213): CSRs, tables and streaming state as after power-on; while BUSY the
accepted command is aborted and OBUF, HIST, FIRST and SHORT become unspecified; IBUF is kept. -/
def State.softReset (s : State) : State :=
  { s with
    csr := Csr.reset
    tblE := MtfTable.identity
    tblD := MtfTable.identity
    obuf := if s.csr.status.busy then Memory.unspecified else s.obuf
    hist := if s.csr.status.busy then Memory.unspecified else s.hist
    first := if s.csr.status.busy then Memory.unspecified else s.first
    short := if s.csr.status.busy then Memory.unspecified else s.short
    delay := 0 }

end Sys2Proof.Machine
end

