-- ==== Sys2Proof/Machine/Operands.lean ====
section
/-! DEFINITION. The operands of the commands (30_encoding R92) and the reads of the stores, with the draws of
00_scope R7 for what is unspecified; the little-endian assembly of 20_memory R64. -/

namespace Sys2Proof.Machine

open Sys2Proof

/-- The value of bytes at rising offsets, little-endian: the byte at offset o + k is bits [8k+7:8k] (20_memory R64). -/
def joinBytes : List Byte → Word
  | [] => 0#32
  | b :: bs => b.setWidth 32 ||| (joinBytes bs <<< 8)

/-- The `k` low bytes of a value, the least significant first (20_memory R64). -/
def splitBytes (v : Word) : Nat → List Byte
  | 0 => []
  | k + 1 => v.setWidth 8 :: splitBytes (v >>> 8) k

/-- A drawn 32-bit entry: a draw for each of its four bytes (00_scope R7). -/
def drawWord (epoch : Nat) (st : StoreName) (i : Nat) : Word :=
  joinBytes ((List.range 4).map fun k => Config.drawByte epoch st (4 * i + k))

/-- Byte `i` of a byte store, a draw where it is unspecified (00_scope R7). -/
def readByte (epoch : Nat) (st : StoreName) (m : Memory 8) (i : Nat) : Byte :=
  (m.read? i).getD (Config.drawByte epoch st i)

/-- Entry `i` of a store of 32-bit entries, a draw where it is unspecified (00_scope R7). -/
def readEntry (epoch : Nat) (st : StoreName) (m : Memory 32) (i : Nat) : Word :=
  (m.read? i).getD (drawWord epoch st i)

/-- `IBUF[i]` as this step reads it. -/
def State.ibufByte (s : State) (i : Nat) : Byte := readByte s.epoch .ibuf s.ibuf i

/-- `IBUF[0..n)`, the input block (20_memory R63: no command reads further). -/
def State.input (s : State) (n : Nat) : List Byte := (List.range n).map s.ibufByte

/-- `HIST[0..256)` as this step reads it, each entry once (42_bwt_inverse R144). -/
def State.histCounts (s : State) : List Nat :=
  (List.range 256).map fun b => (readEntry s.epoch .hist s.hist b).toNat

/-- `n` of every command that reads IBUF (10_state R26). -/
def State.len (s : State) : Nat := s.csr.len.toNat

/-- The cause of LEN_RANGE: LEN > IBUF_BYTES (60_exceptions R180, R182). -/
def State.lenOutOfRange (s : State) : Bool := decide (s.params.ibufBytes < s.len)

/-- The cause of OUT_OVERFLOW for a result of `required` bytes: it would exceed OBUF_BYTES (60_exceptions R180). -/
def State.outputTooLong (s : State) (required : Nat) : Bool := decide (s.params.obufBytes < required)

/-- `OBUF[i]` where it is specified, as a listed byte. -/
def State.obufByte? (s : State) (i : Nat) : Option Byte := s.obuf.read? i

end Sys2Proof.Machine
end

