-- ==== Sys2Proof/Machine/Bwt.lean ====
section
/-! DEFINITION. The histogram, the counting sort and the inverse BWT: the tables of 42_bwt_inverse R140–R142, the
commands R143, R144 and R146, the walk R147. -/

namespace Sys2Proof.Machine

open Sys2Proof

/-- `hist(d)`: the number of times each byte value 0..255 occurs in `d`, in the order of the values (R140). -/
def histogram (d : List Byte) : List Nat :=
  (List.range 256).map fun b => d.count (BitVec.ofNat 8 b)

/-- The running sums before each entry, from `acc` on. -/
def cumFrom (acc : Nat) : List Nat → List Nat
  | [] => []
  | h :: hs => acc :: cumFrom (acc + h) hs

/-- `cum(h)[b] = Σ_{c<b} h[c]` for every b (R141, 90_conflicts C4). -/
def cumulative (h : List Nat) : List Nat := cumFrom 0 h

/-- `shortcut` of the rest of a column of which `seen` has been scanned: for each position, how often its byte occurs
before it (R142). -/
def shortcutFrom (seen : List Byte) : List Byte → List Nat
  | [] => []
  | b :: bs => seen.count b :: shortcutFrom (b :: seen) bs

/-- `shortcut(L)` (R142). -/
def shortcut (col : List Byte) : List Nat := shortcutFrom [] col

/-- Write the tables of histogram `h`: HIST ← h, FIRST ← cum(h) (R141). -/
def State.writeHistogram (s : State) (h : List Nat) : State := s.writeLfTables h (cumulative h)

/-- BWT.HIST: byte histogram of IBUF[0..LEN) (R143). -/
def execBwtHist (s : State) : Host.Outcome State Fault Refusal :=
  .next <|
    if s.lenOutOfRange then s.errorCompletion .lenRange s.csr.len
    else (s.writeHistogram (histogram (s.input s.len))).complete 0 s.len

/-- `h[b]` copies of byte b for b ascending, contiguously, from the value `b` on (R144). -/
def sortedFrom (b : Nat) : List Nat → List Byte
  | [] => []
  | h :: hs => List.replicate h (BitVec.ofNat 8 b) ++ sortedFrom (b + 1) hs

/-- The first column of a histogram: the sorted bytes (R144). -/
def sortedColumn (h : List Nat) : List Byte := sortedFrom 0 h

/-- The end of BWT.CSORT for histogram `h` and CONSUMED = `consumed` (R144). The overflow is precise: nothing has
been written. -/
def State.finishCsort (s : State) (h : List Nat) (consumed : Nat) : State :=
  if s.outputTooLong h.sum then s.errorCompletion .outOverflow (overflowInfo h.sum)
  else ((s.writeHistogram h).writeObuf 0 (sortedColumn h)).complete h.sum consumed

/-- BWT.CSORT: counting sort, of IBUF[0..LEN) with H = 1, of HIST as it stands with H = 0 (R144). -/
def execBwtCsort (h : Bool) (s : State) : Host.Outcome State Fault Refusal :=
  .next <|
    if h then
      if s.lenOutOfRange then s.errorCompletion .lenRange s.csr.len
      else s.finishCsort (histogram (s.input s.len)) s.len
    else s.finishCsort s.histCounts 0

/-- One LF step from row `idx`: `FIRST[L[idx]] + SHORT[idx]` (R147, R151). The defaults are never reached from a row
of the column (R148). -/
def lfStep (col : List Byte) (first sc : List Nat) (idx : Nat) : Nat :=
  first.getD (col.getD idx 0#8).toNat 0 + sc.getD idx 0

/-- The loop of R147, `k` rounds to go, from row `idx`: the output is filled from its end backward, so each byte goes
in front of those already written. -/
def lfLoop (col : List Byte) (first sc : List Nat) : Nat → Nat → List Byte → List Byte
  | 0, _, out => out
  | k + 1, idx, out => lfLoop col first sc k (lfStep col first sc idx) (col.getD idx 0#8 :: out)

/-- The block the walk of R147 writes for column `col` and primary index `p`. -/
def inverseBwt (col : List Byte) (p : Nat) : List Byte :=
  lfLoop col (cumulative (histogram col)) (shortcut col) col.length p []

/-- BWT.INV: `ibwt(last_column, primary_index)` (R146, R147; PRIMARY is not checked when LEN = 0, 90_conflicts C3). -/
def execBwtInv (s : State) : Host.Outcome State Fault Refusal :=
  .next <|
    if s.lenOutOfRange then s.errorCompletion .lenRange s.csr.len
    else if 0 < s.len ∧ s.len ≤ s.csr.primary.toNat then s.errorCompletion .primaryRange s.csr.primary
    else if s.outputTooLong s.len then s.errorCompletion .outOverflow (overflowInfo s.len)
    else
      let col := s.input s.len
      (((s.writeHistogram (histogram col)).writeShort (shortcut col)).writeObuf 0
        (inverseBwt col s.csr.primary.toNat)).complete s.len s.len

end Sys2Proof.Machine
end

