-- ==== Sys2Proof/Machine/Control.lean ====
section
/-! DEFINITION. The control command NOP (40_control R110). -/

namespace Sys2Proof.Machine

open Sys2Proof

/-- NOP: `complete(0, 0)` (R110). -/
def execNop (s : State) : Host.Outcome State Fault Refusal :=
  .next (s.complete 0 0)

end Sys2Proof.Machine
end

