-- ==== Sys2Proof/Machine/Mtf.lean ====
section
/-! DEFINITION. Move-To-Front: the per-symbol steps of 43_mtf R160 and the five commands R161–R165. -/

namespace Sys2Proof.Machine

open Sys2Proof

/-- The table with the entry at position `j` moved to the front: entries [0, j) move to [1, j], those above j stay
(R160). -/
def MtfTable.moveToFront (t : MtfTable) (j : Byte) : MtfTable :=
  ⟨(t[j.toNat] :: t.toList.eraseIdx j.toNat).toArray, by
    have h : j.toNat < 256 := j.isLt
    simp [List.length_eraseIdx, h]⟩

/-- The front distance of `b`: the position at which the table holds it (R160). -/
def MtfTable.position (t : MtfTable) (b : Byte) : Byte := BitVec.ofNat 8 (t.toList.idxOf b)

/-- `mtf_enc_sym(T, b)`: the front distance and the updated table (R160). -/
def mtfEncSym (t : MtfTable) (b : Byte) : Byte × MtfTable :=
  (t.position b, t.moveToFront (t.position b))

/-- `mtf_dec_sym(T, j)`: the byte and the updated table (R160). -/
def mtfDecSym (t : MtfTable) (j : Byte) : Byte × MtfTable :=
  (t[j.toNat], t.moveToFront j)

/-- A per-symbol step over a sequence, in ascending order: the outputs and the last table (R162, R163). -/
def mtfBatch (f : MtfTable → Byte → Byte × MtfTable) : MtfTable → List Byte → List Byte × MtfTable
  | t, [] => ([], t)
  | t, x :: xs => ((f t x).1 :: (mtfBatch f (f t x).2 xs).1, (mtfBatch f (f t x).2 xs).2)

/-- MTF.INIT: set a table to identity (R161). -/
def execMtfInit (e d : Bool) (s : State) : Host.Outcome State Fault Refusal :=
  .next <|
    ((s.setTblE (if e then MtfTable.identity else s.tblE)).setTblD
      (if d then MtfTable.identity else s.tblD)).complete 0 0

/-- The table a batch starts from: identity with I = 1, the current table with I = 0 (R162, R163). -/
def batchTable (i : Bool) (t : MtfTable) : MtfTable := if i then MtfTable.identity else t

/-- MTF.ENC: batch encode of IBUF[0..LEN) into OBUF (R162). -/
def execMtfEnc (i : Bool) (s : State) : Host.Outcome State Fault Refusal :=
  .next <|
    if s.lenOutOfRange then s.errorCompletion .lenRange s.csr.len
    else if s.outputTooLong s.len then s.errorCompletion .outOverflow (overflowInfo s.len)
    else
      let r := mtfBatch mtfEncSym (batchTable i s.tblE) (s.input s.len)
      ((s.setTblE r.2).writeObuf 0 r.1).complete s.len s.len

/-- MTF.DEC: batch decode of IBUF[0..LEN) into OBUF (R163). -/
def execMtfDec (i : Bool) (s : State) : Host.Outcome State Fault Refusal :=
  .next <|
    if s.lenOutOfRange then s.errorCompletion .lenRange s.csr.len
    else if s.outputTooLong s.len then s.errorCompletion .outOverflow (overflowInfo s.len)
    else
      let r := mtfBatch mtfDecSym (batchTable i s.tblD) (s.input s.len)
      ((s.setTblD r.2).writeObuf 0 r.1).complete s.len s.len

/-- MTF.ENC1: encode one symbol (R164). -/
def execMtfEnc1 (sym : Byte) (s : State) : Host.Outcome State Fault Refusal :=
  .next (((s.setTblE (mtfEncSym s.tblE sym).2).setMtfSym (mtfEncSym s.tblE sym).1).complete 0 0)

/-- MTF.DEC1: decode one symbol (R165). -/
def execMtfDec1 (sym : Byte) (s : State) : Host.Outcome State Fault Refusal :=
  .next (((s.setTblD (mtfDecSym s.tblD sym).2).setMtfSym (mtfDecSym s.tblD sym).1).complete 0 0)

end Sys2Proof.Machine
end

