-- ==== Sys2Proof/Machine/Rle.lean ====
section
/-! DEFINITION. RLE-1: the pure functions of 41_rle R120–R123 and the five commands R125, R127–R130. Every meaning
answers a next state: an error is the error completion of 60_exceptions R184. -/

namespace Sys2Proof.Machine

open Sys2Proof

/-- `encode_run(b, r)` (R120): min(r, 4) literal copies, and the byte r − 4 when r ≥ 4. -/
def encodeRun (b : Byte) (r : Nat) : List Byte :=
  List.replicate (min r 4) b ++ (if 4 ≤ r then [BitVec.ofNat 8 (r - 4)] else [])

/-- `cost(r)` (R120). -/
def runCost (r : Nat) : Nat := if r = 0 then 0 else if r ≤ 3 then r else 5

/-- How many of the first `cap` bytes equal `b` without a gap. -/
def leadCount (b : Byte) : Nat → List Byte → Nat
  | 0, _ => 0
  | _ + 1, [] => 0
  | cap + 1, x :: xs => if x = b then leadCount b cap xs + 1 else 0

/-- `run_len(d, 0)` of a non-empty `d` (R121): the run of its first byte, at most `cap` long. -/
def runLen (cap : Nat) : List Byte → Nat
  | [] => 0
  | b :: bs => leadCount b cap (b :: bs)

/-- The loop of `rle_enc` (R122) with at most `fuel` rounds. -/
def rleEncLoop (cap : Nat) : Nat → List Byte → List Byte
  | 0, _ => []
  | _ + 1, [] => []
  | fuel + 1, b :: bs =>
    encodeRun b (runLen cap (b :: bs)) ++ rleEncLoop cap fuel ((b :: bs).drop (runLen cap (b :: bs)))

/-- `rle_enc(d)` with RLE_RUN_CAP = `cap` (R122). Every round consumes a byte (cap ≥ 4), so |d| rounds suffice. -/
def rleEnc (cap : Nat) (d : List Byte) : List Byte := rleEncLoop cap d.length d

/-- The loop of `rle_dec` (R123) with at most `fuel` rounds. A whole window and a fifth byte: the window is a run and
the fifth byte its continuation, 4 + c copies (90_conflicts C1). Otherwise the equal prefix of the window is
literal. With fewer than 4 bytes left they are copied. -/
def rleDecLoop : Nat → List Byte → List Byte
  | 0, _ => []
  | fuel + 1, b :: b1 :: b2 :: b3 :: rest =>
    match decide (b1 = b ∧ b2 = b ∧ b3 = b), rest with
    | true, c :: rest' => List.replicate (4 + c.toNat) b ++ rleDecLoop fuel rest'
    | _, _ =>
      let p := leadCount b 4 (b :: b1 :: b2 :: b3 :: rest)
      List.replicate p b ++ rleDecLoop fuel ((b :: b1 :: b2 :: b3 :: rest).drop p)
  | _ + 1, e => e

/-- `rle_dec(e)` (R123). Every round consumes a byte, so |e| rounds suffice. -/
def rleDec (e : List Byte) : List Byte := rleDecLoop e.length e

/-- The end of RLE.ENC and RLE.DEC, whose result is `out` (R125, R127): an overflow is the one imprecise error, after
which every byte of OBUF is unspecified (60_exceptions R185). -/
def State.finishRle (s : State) (out : List Byte) : State :=
  if s.outputTooLong out.length then s.forgetObuf.errorCompletion .outOverflow (overflowInfo out.length)
  else (s.writeObuf 0 out).complete out.length s.len

/-- RLE.ENC: one-shot RLE-1 encode of IBUF[0..LEN) into OBUF (R125). -/
def execRleEnc (s : State) : Host.Outcome State Fault Refusal :=
  .next <|
    if s.lenOutOfRange then s.errorCompletion .lenRange s.csr.len
    else s.finishRle (rleEnc s.params.runCap (s.input s.len))

/-- RLE.DEC: RLE-1 decode of IBUF[0..LEN) into OBUF (R127). -/
def execRleDec (s : State) : Host.Outcome State Fault Refusal :=
  .next <|
    if s.lenOutOfRange then s.errorCompletion .lenRange s.csr.len
    else s.finishRle (rleDec (s.input s.len))

/-- RLE.SINIT: start a new stream (R128). -/
def execRleSinit (s : State) : Host.Outcome State Fault Refusal :=
  .next <|
    if s.outputTooLong s.csr.rleMax.toNat then s.errorCompletion .rleMaxRange s.csr.rleMax
    else ((s.setStream true 0#8 0 0).setCaplim s.csr.rleMax).complete 0 0

/-- The variables of the push loop (R129): pb, pc, the bytes flushed so far (they go to OBUF[sout..) in this order,
so sout has grown by their number), and k. -/
structure PushLoop where
  pb : Byte
  pc : Nat
  flushed : List Byte
  k : Nat
deriving DecidableEq, Repr

/-- The loop of RLE.SPUSH (R129) over the bytes IBUF[k..n), with RLE_RUN_CAP = `cap`, capacity `max` and the fill
level `sout` at the start of the command. -/
def pushLoop (cap max sout : Nat) : PushLoop → List Byte → PushLoop
  | p, [] => p
  | p, b :: bs =>
    if 0 < p.pc ∧ b = p.pb ∧ p.pc < cap then
      if max < sout + p.flushed.length + runCost (p.pc + 1) then p
      else pushLoop cap max sout ⟨p.pb, p.pc + 1, p.flushed, p.k + 1⟩ bs
    else
      if max < sout + p.flushed.length + (encodeRun p.pb p.pc).length + 1 then p
      else pushLoop cap max sout ⟨b, 1, p.flushed ++ encodeRun p.pb p.pc, p.k + 1⟩ bs

/-- The push loop from the stream state of `s` (10_state R46) over the input block. -/
def State.pushResult (s : State) : PushLoop :=
  pushLoop s.params.runCap s.csr.rleCaplim.toNat s.csr.rleSout.toNat
    ⟨s.csr.pendingByte, s.csr.pendingCount.toNat, [], 0⟩ (s.input s.len)

/-- The successful end of RLE.SPUSH: the flushed bytes to OBUF[sout..), the stream state, `complete(sout, k)` (R129). -/
def State.finishPush (s : State) (p : PushLoop) : State :=
  let sout := s.csr.rleSout.toNat
  ((s.writeObuf sout p.flushed).setStream true p.pb p.pc (sout + p.flushed.length)).complete
    (sout + p.flushed.length) p.k

/-- RLE.SPUSH: one streaming call with the input slice IBUF[0..LEN) (R129). -/
def execRleSpush (s : State) : Host.Outcome State Fault Refusal :=
  .next <|
    if !s.csr.status.rleActive then s.errorCompletion .rleNotActive s.csr.cmd
    else if s.lenOutOfRange then s.errorCompletion .lenRange s.csr.len
    else s.finishPush s.pushResult

/-- The bytes RLE.SFIN flushes: the pending run (R130). -/
def State.pendingRun (s : State) : List Byte := encodeRun s.csr.pendingByte s.csr.pendingCount.toNat

/-- RLE.SFIN: flush the pending run and end the stream (R130). RLE_CAPLIM keeps its value. -/
def execRleSfin (s : State) : Host.Outcome State Fault Refusal :=
  .next <|
    if !s.csr.status.rleActive then s.errorCompletion .rleNotActive s.csr.cmd
    else
      let sout := s.csr.rleSout.toNat
      ((s.writeObuf sout s.pendingRun).setStream false 0#8 0 (sout + s.pendingRun.length)).complete
        (sout + s.pendingRun.length) 0

end Sys2Proof.Machine
end

