-- ==== Sys2Proof/Syntax.lean ====
section
/-! DEFINITION. The commands of the BTE: one constructor per row of spec/opcode_table.json (30_encoding R93). -/

namespace Sys2Proof

/-- A decoded command. The flags F0 and F1 appear under the name the format gives them (R90, R91):
`h` for BWT.CSORT, `i` for MTF.ENC and MTF.DEC, `e` and `d` for MTF.INIT. `sym` is the 8-bit SYM field. -/
inductive Instr where
  /-- NOP, OPC 0x00 (R110). -/
  | nop
  /-- RLE.ENC, OPC 0x10 (R125). -/
  | rleEnc
  /-- RLE.DEC, OPC 0x11 (R127). -/
  | rleDec
  /-- RLE.SINIT, OPC 0x12 (R128). -/
  | rleSinit
  /-- RLE.SPUSH, OPC 0x13 (R129). -/
  | rleSpush
  /-- RLE.SFIN, OPC 0x14 (R130). -/
  | rleSfin
  /-- BWT.HIST, OPC 0x20 (R143). -/
  | bwtHist
  /-- BWT.CSORT, OPC 0x21, H = F0 (R144). -/
  | bwtCsort (h : Bool)
  /-- BWT.INV, OPC 0x22 (R146). -/
  | bwtInv
  /-- MTF.INIT, OPC 0x30, E = F0, D = F1 (R161). -/
  | mtfInit (e d : Bool)
  /-- MTF.ENC, OPC 0x31, I = F0 (R162). -/
  | mtfEnc (i : Bool)
  /-- MTF.DEC, OPC 0x32, I = F0 (R163). -/
  | mtfDec (i : Bool)
  /-- MTF.ENC1, OPC 0x33, SYM (R164). -/
  | mtfEnc1 (sym : Byte)
  /-- MTF.DEC1, OPC 0x34, SYM (R165). -/
  | mtfDec1 (sym : Byte)
deriving DecidableEq, Repr

end Sys2Proof
end

