-- ==== Sys2Proof/Machine/Dispatch.lean ====
section
/-! DEFINITION. The meaning of each command: what its completion step does (40_control R112), one arm each. -/

namespace Sys2Proof.Machine

open Sys2Proof

def exec (i : Instr) (s : State) : Host.Outcome State Fault Refusal :=
  match i with
  | .nop => Sys2Proof.Machine.execNop s
  | .rleEnc => Sys2Proof.Machine.execRleEnc s
  | .rleDec => Sys2Proof.Machine.execRleDec s
  | .rleSinit => Sys2Proof.Machine.execRleSinit s
  | .rleSpush => Sys2Proof.Machine.execRleSpush s
  | .rleSfin => Sys2Proof.Machine.execRleSfin s
  | .bwtHist => Sys2Proof.Machine.execBwtHist s
  | .bwtCsort h => Sys2Proof.Machine.execBwtCsort h s
  | .bwtInv => Sys2Proof.Machine.execBwtInv s
  | .mtfInit e d => Sys2Proof.Machine.execMtfInit e d s
  | .mtfEnc fresh => Sys2Proof.Machine.execMtfEnc fresh s
  | .mtfDec fresh => Sys2Proof.Machine.execMtfDec fresh s
  | .mtfEnc1 sym => Sys2Proof.Machine.execMtfEnc1 sym s
  | .mtfDec1 sym => Sys2Proof.Machine.execMtfDec1 sym s

end Sys2Proof.Machine
end

