-- ==== Sys2Proof/WellFormed.lean ====
section
/-! DEFINITION. Which command words are well formed (30_encoding R91, R94, R95), stated on the 32-bit word
itself and independently of the decoder. The fields of `Instr` are typed so narrowly (a `Bool` per flag, a
`Byte` for SYM) that every term of `Instr` is a command; what can be ill formed is the word. -/

namespace Sys2Proof

/-- The OPC field, bits [7:0] (R90). -/
def CommandWord.opc (w : Word) : Byte := w.extractLsb' 0 8

/-- The opcodes R93 assigns, as the ranges left free by R94. -/
def CommandWord.opcodeAssigned (w : Word) : Bool :=
  let o := (CommandWord.opc w).toNat
  o == 0x00 || (0x10 ≤ o && o ≤ 0x14) || (0x20 ≤ o && o ≤ 0x22) || (0x30 ≤ o && o ≤ 0x34)

/-- The allowed-bit mask of the opcode's format (R91): S for MTF.ENC1 and MTF.DEC1, ED for MTF.INIT, F for
BWT.CSORT, MTF.ENC and MTF.DEC, N for the others. -/
def CommandWord.allowedBits (w : Word) : Word :=
  let o := (CommandWord.opc w).toNat
  if o == 0x33 || o == 0x34 then 0x00FF00FF#32
  else if o == 0x30 then 0x000003FF#32
  else if o == 0x21 || o == 0x31 || o == 0x32 then 0x000001FF#32
  else 0x000000FF#32

/-- No 1 outside the format's allowed-bit mask (R95). -/
def CommandWord.reservedClear (w : Word) : Bool :=
  (w &&& ~~~ CommandWord.allowedBits w) == 0#32

/-- A word that is some command: its opcode is assigned and its reserved bits are 0. -/
def CommandWord.wellFormed (w : Word) : Bool :=
  CommandWord.opcodeAssigned w && CommandWord.reservedClear w

end Sys2Proof
end

