-- ==== Sys2Proof/Decode.lean ====
section
/-! DEFINITION. The decode function of 30_encoding R97, total on every 32-bit word, and the encoder of R102,
both read off the opcode map of R93 and the formats of R91. -/

namespace Sys2Proof

/-- The formats of R91. -/
inductive Format where
  /-- OPC only. -/
  | n
  /-- OPC and F0. -/
  | f
  /-- OPC, F0 and F1. -/
  | ed
  /-- OPC and SYM. -/
  | s
deriving DecidableEq, Repr

/-- Why a word is no command (R94, R95): the two decode errors, by name. Their ERRINFO is the word (R181). -/
inductive DecodeError where
  /-- The OPC value is not assigned (R94). -/
  | illegalOpcode
  /-- A 1 in a bit outside the format's allowed mask (R95). -/
  | reservedField
deriving DecidableEq, Repr

/-- The fields of the layout of R90, already cut out of the word. -/
structure CommandFields where
  f0 : Bool
  f1 : Bool
  sym : Byte
deriving DecidableEq, Repr

/-- One row of the opcode map of R93. -/
structure OpcodeRow where
  opc : Byte
  fmt : Format
  build : CommandFields → Instr

/-- The allowed-bit mask of a format (R91). -/
def Format.allowedMask : Format → Word
  | .n => 0x000000FF#32
  | .f => 0x000001FF#32
  | .ed => 0x000003FF#32
  | .s => 0x00FF00FF#32

/-- The opcode map (R93). -/
def opcodeMap : List OpcodeRow :=
  [ ⟨0x00#8, .n, fun _ => .nop⟩,
    ⟨0x10#8, .n, fun _ => .rleEnc⟩,
    ⟨0x11#8, .n, fun _ => .rleDec⟩,
    ⟨0x12#8, .n, fun _ => .rleSinit⟩,
    ⟨0x13#8, .n, fun _ => .rleSpush⟩,
    ⟨0x14#8, .n, fun _ => .rleSfin⟩,
    ⟨0x20#8, .n, fun _ => .bwtHist⟩,
    ⟨0x21#8, .f, fun x => .bwtCsort x.f0⟩,
    ⟨0x22#8, .n, fun _ => .bwtInv⟩,
    ⟨0x30#8, .ed, fun x => .mtfInit x.f0 x.f1⟩,
    ⟨0x31#8, .f, fun x => .mtfEnc x.f0⟩,
    ⟨0x32#8, .f, fun x => .mtfDec x.f0⟩,
    ⟨0x33#8, .s, fun x => .mtfEnc1 x.sym⟩,
    ⟨0x34#8, .s, fun x => .mtfDec1 x.sym⟩ ]

/-- The row of an opcode, if it is assigned (R93, R94). -/
def opcodeRow? (opc : Byte) : Option OpcodeRow :=
  opcodeMap.find? fun r => r.opc == opc

/-- The fields of a word (R90, R92): F0 = w[8], F1 = w[9], SYM = w[23:16]. -/
def commandFields (w : Word) : CommandFields :=
  ⟨w.getLsbD 8, w.getLsbD 9, w.extractLsb' 16 8⟩

/-- `decode(w)` of R97: the opcode is looked up first, then the reserved bits are checked (R183 items 1, 2). -/
def decode (w : Word) : Except DecodeError Instr :=
  match opcodeRow? (w.extractLsb' 0 8) with
  | none => .error .illegalOpcode
  | some r =>
    if w &&& ~~~ r.fmt.allowedMask = 0#32 then .ok (r.build (commandFields w))
    else .error .reservedField

/-- The OPC of a command (R93). -/
def opcodeOf : Instr → Byte
  | .nop => 0x00#8
  | .rleEnc => 0x10#8
  | .rleDec => 0x11#8
  | .rleSinit => 0x12#8
  | .rleSpush => 0x13#8
  | .rleSfin => 0x14#8
  | .bwtHist => 0x20#8
  | .bwtCsort _ => 0x21#8
  | .bwtInv => 0x22#8
  | .mtfInit _ _ => 0x30#8
  | .mtfEnc _ => 0x31#8
  | .mtfDec _ => 0x32#8
  | .mtfEnc1 _ => 0x33#8
  | .mtfDec1 _ => 0x34#8

/-- The fields of a command; a field its format does not have is 0 (R97, R101). -/
def fieldsOf : Instr → CommandFields
  | .nop => ⟨false, false, 0#8⟩
  | .rleEnc => ⟨false, false, 0#8⟩
  | .rleDec => ⟨false, false, 0#8⟩
  | .rleSinit => ⟨false, false, 0#8⟩
  | .rleSpush => ⟨false, false, 0#8⟩
  | .rleSfin => ⟨false, false, 0#8⟩
  | .bwtHist => ⟨false, false, 0#8⟩
  | .bwtCsort h => ⟨h, false, 0#8⟩
  | .bwtInv => ⟨false, false, 0#8⟩
  | .mtfInit e d => ⟨e, d, 0#8⟩
  | .mtfEnc i => ⟨i, false, 0#8⟩
  | .mtfDec i => ⟨i, false, 0#8⟩
  | .mtfEnc1 sym => ⟨false, false, sym⟩
  | .mtfDec1 sym => ⟨false, false, sym⟩

/-- A flag as a word, 1 for true (R92). -/
def flagWord (b : Bool) : Word := if b then 1#32 else 0#32

/-- The command word of a command: OPC | F0<<8 | F1<<9 | SYM<<16 (R102). -/
def encode (i : Instr) : Word :=
  (opcodeOf i).setWidth 32 ||| (flagWord (fieldsOf i).f0 <<< 8) ||| (flagWord (fieldsOf i).f1 <<< 9) |||
    ((fieldsOf i).sym.setWidth 32 <<< 16)

/-- The command word that an opcode-table numeral stands for: its low `nbits` bits, 0 above them. A command is
one 32-bit word and one 4-byte CSR write (R96), so bit 0 of the table is bit 0 of the word. -/
def tableWord (nbits w : Nat) : Word := BitVec.ofNat 32 (w % 2 ^ nbits)

/-- What the decoder reads from a word given as the opcode table numbers it. -/
def decodeTableWord (nbits w : Nat) : Option Instr :=
  match decode (tableWord nbits w) with
  | .ok i => some i
  | .error _ => none

end Sys2Proof
end

