-- ==== Sys2Proof/Machine/Engine.lean ====
section
/-! DEFINITION. The parts of the engine's turn that stand around the command's meaning: what a decode error of
30_encoding R97 ends with, and the placing of an accepted command. -/

namespace Sys2Proof.Machine

open Sys2Proof

/-- The error code of a decode error (60_exceptions R180). -/
def decodeErrCode : DecodeError → ErrCode
  | .illegalOpcode => .illegalOpcode
  | .reservedField => .reservedField

/-- A decode error ends the completion step with its code and the command word (30_encoding R97, 60_exceptions R181). -/
def State.decodeErrorCompletion (s : State) (e : DecodeError) : State :=
  s.errorCompletion (decodeErrCode e) s.csr.cmd

/-- The word `w` accepted (40_control R111) with its completion step due at once: of the numbers of host steps that
R113 allows before it, none. -/
def State.acceptNow (s : State) (w : Word) : State := { s.accept w with delay := 0 }

/-- The engine's completion step is due: BUSY = 1, and the host steps drawn at acceptance have passed, or the host has
none left to make (40_control R112, R113). `hostLeft` says whether the host has a step to make. -/
def State.engineDue (s : State) (hostLeft : Bool) : Bool := s.csr.status.busy && (s.delay == 0 || !hostLeft)

end Sys2Proof.Machine
end

