-- ==== Sys2Proof/Machine/HostBus.lean ====
section
/-! DEFINITION. The host's single bus accesses: legality and bus errors (20_memory R65–R67), the CSR map (10_state
§2), reads (R64, R71) and writes with their side effects (R68, R70; 40_control R111, R114). -/

namespace Sys2Proof.Machine

open Sys2Proof

/-- What a mapped CSR offset names (10_state §2). -/
inductive CsrLoc where
  | id
  | version
  | ctrl
  | status
  | cmd
  | len
  | primary
  | outLen
  | consumed
  | errcode
  | errinfo
  | rleMax
  | rleState
  | rleSout
  | rleCaplim
  | mtfSym
  | irqEn
  | irqStatus
  | capIbuf
  | capObuf
  | runCap
  /-- HIST[b] at 0x400 + 4·b. -/
  | hist (b : Nat)
  /-- FIRST[b] at 0x800 + 4·b. -/
  | first (b : Nat)
  /-- Word w of the TBL_E window at 0xC00 + 4·w. -/
  | tblE (w : Nat)
  /-- Word w of the TBL_D window at 0xD00 + 4·w. -/
  | tblD (w : Nat)
deriving DecidableEq, Repr

/-- The registers of 10_state §2 from offset 0x000 on, one per 4 bytes. -/
def csrRegisters : List CsrLoc :=
  [.id, .version, .ctrl, .status, .cmd, .len, .primary, .outLen, .consumed, .errcode, .errinfo, .rleMax, .rleState,
    .rleSout, .rleCaplim, .mtfSym, .irqEn, .irqStatus, .capIbuf, .capObuf, .runCap]

/-- The CSR map (10_state §2) at a word-aligned offset; none in the unmapped ranges 0x054–0x3FC and 0xE00–0xFFC
and beyond the space (20_memory R67). -/
def csrLoc? (off : Nat) : Option CsrLoc :=
  if off < 0x400 then csrRegisters[off / 4]?
  else if off < 0x800 then some (.hist ((off - 0x400) / 4))
  else if off < 0xC00 then some (.first ((off - 0x800) / 4))
  else if off < 0xD00 then some (.tblE ((off - 0xC00) / 4))
  else if off < 0xE00 then some (.tblD ((off - 0xD00) / 4))
  else none

/-- The size of a space in bytes (20_memory R60). -/
def Space.size (p : Params) : Space → Nat
  | .csr => 4096
  | .ibuf => p.ibufBytes
  | .obuf => p.obufBytes
  | .work => 4 * p.ibufBytes

/-- The widths a space takes, aligned to themselves (20_memory R65). -/
def Space.takesWidth (sp : Space) (width : Nat) : Bool :=
  match sp with
  | .csr => width == 4
  | .work => width == 4
  | .ibuf => width == 1 || width == 2 || width == 4
  | .obuf => width == 1 || width == 2 || width == 4

/-- The accesses that get no bus error (20_memory R65, R66, R67): a width the space takes, aligned, inside the
space, at a mapped CSR offset, and no write to WORK. -/
def accessAllowed (p : Params) (sp : Space) (off : Offset) (width : Nat) (write : Bool) : Bool :=
  sp.takesWidth width && off.toNat % width == 0 && decide (off.toNat + width ≤ sp.size p) &&
    (sp != .csr || (csrLoc? off.toNat).isSome) && !(sp == .work && write)

/-- Four bytes from `a` on that a host read while BUSY draws (20_memory R71: a fresh draw per byte). -/
def drawnBytes (epoch : Nat) (st : StoreName) (a width : Nat) : Word :=
  joinBytes ((List.range width).map fun k => Config.drawByte epoch st (a + k))

/-- Word `w` of a table window: entry 4w+k in bits [8k+7:8k] (10_state R40). -/
def windowWord (t : MtfTable) (w : Nat) : Word :=
  joinBytes ((List.range 4).map fun k => (t[4 * w + k]?).getD 0#8)

/-- What a host read of a CSR location returns (10_state §2). HIST, FIRST, TBL_E and TBL_D read as draws while BUSY
(20_memory R71); the registers read their current value. CTRL reads 0 (R23). -/
def State.csrRead (s : State) : CsrLoc → Word
  | .id => 0x42544531#32
  | .version => 0x00010000#32
  | .ctrl => 0#32
  | .status => s.csr.status.toWord
  | .cmd => s.csr.cmd
  | .len => s.csr.len
  | .primary => s.csr.primary
  | .outLen => s.csr.outLen
  | .consumed => s.csr.consumed
  | .errcode => s.csr.errcode.setWidth 32
  | .errinfo => s.csr.errinfo
  | .rleMax => s.csr.rleMax
  | .rleState => (s.csr.pendingCount ++ s.csr.pendingByte).setWidth 32
  | .rleSout => s.csr.rleSout
  | .rleCaplim => s.csr.rleCaplim
  | .mtfSym => s.csr.mtfSym.setWidth 32
  | .irqEn => s.csr.irqEn.toWord
  | .irqStatus => s.csr.irqStatus.toWord
  | .capIbuf => BitVec.ofNat 32 s.params.ibufBytes
  | .capObuf => BitVec.ofNat 32 s.params.obufBytes
  | .runCap => BitVec.ofNat 32 s.params.runCap
  | .hist b => if s.csr.status.busy then drawnBytes s.epoch .hist (4 * b) 4 else readEntry s.epoch .hist s.hist b
  | .first b => if s.csr.status.busy then drawnBytes s.epoch .first (4 * b) 4 else readEntry s.epoch .first s.first b
  | .tblE w => if s.csr.status.busy then drawnBytes s.epoch .tblE (4 * w) 4 else windowWord s.tblE w
  | .tblD w => if s.csr.status.busy then drawnBytes s.epoch .tblD (4 * w) 4 else windowWord s.tblD w

/-- What an allowed host read of a space returns (20_memory R64, R71). -/
def State.spaceRead (s : State) (sp : Space) (off : Offset) (width : Nat) : Word :=
  match sp with
  | .csr => ((csrLoc? off.toNat).map s.csrRead).getD 0#32
  | .ibuf => joinBytes ((List.range width).map fun k => readByte s.epoch .ibuf s.ibuf (off.toNat + k))
  | .obuf =>
    if s.csr.status.busy then drawnBytes s.epoch .obuf off.toNat width
    else joinBytes ((List.range width).map fun k => readByte s.epoch .obuf s.obuf (off.toNat + k))
  | .work =>
    if s.csr.status.busy then drawnBytes s.epoch .short off.toNat width
    else readEntry s.epoch .short s.short (off.toNat / 4)

/-- A write dropped while BUSY: WR_BUSY ← 1 and nothing else (20_memory R70). -/
def State.dropWrite (s : State) : State :=
  { s with csr := { s.csr with status := { s.csr.status with wrBusy := true } } }

/-- A CMD write dropped while BUSY: CMD_OVR ← 1 and nothing else (40_control R114). -/
def State.dropCommand (s : State) : State :=
  { s with csr := { s.csr with status := { s.csr.status with cmdOvr := true } } }

/-- `f` while idle, dropped while BUSY (20_memory R70). -/
def State.whileIdle (s : State) (f : State) : State := if s.csr.status.busy then s.dropWrite else f

/-- A host write of `v` to a CSR location (10_state §2, R22–R25, R37, R38, R41; 20_memory R70). A write to a
read-only location is ignored while idle and dropped while BUSY. -/
def State.csrWrite (s : State) (v : Word) : CsrLoc → State
  | .id => s.whileIdle s
  | .version => s.whileIdle s
  | .ctrl => if v.getLsbD 0 then s.softReset else s
  | .status => { s with csr := { s.csr with status := s.csr.status.writeOneClears v } }
  | .cmd => if s.csr.status.busy then s.dropCommand else s.accept v
  | .len => s.whileIdle { s with csr := { s.csr with len := v } }
  | .primary => s.whileIdle { s with csr := { s.csr with primary := v } }
  | .outLen => s.whileIdle s
  | .consumed => s.whileIdle s
  | .errcode => s.whileIdle s
  | .errinfo => s.whileIdle s
  | .rleMax => s.whileIdle { s with csr := { s.csr with rleMax := v } }
  | .rleState => s.whileIdle s
  | .rleSout => s.whileIdle s
  | .rleCaplim => s.whileIdle s
  | .mtfSym => s.whileIdle s
  | .irqEn => { s with csr := { s.csr with irqEn := IrqBits.ofWord v } }
  | .irqStatus => { s with csr := { s.csr with irqStatus := s.csr.irqStatus.writeOneClears v } }
  | .capIbuf => s.whileIdle s
  | .capObuf => s.whileIdle s
  | .runCap => s.whileIdle s
  | .hist b => s.whileIdle { s with hist := s.hist.write b [v] }
  | .first _ => s.whileIdle s
  | .tblE _ => s.whileIdle s
  | .tblD _ => s.whileIdle s

/-- An allowed host write of the low `width` bytes of `v` to a space (20_memory R64, R70). -/
def State.spaceWrite (s : State) (sp : Space) (off : Offset) (width : Nat) (v : Word) : State :=
  match sp with
  | .csr => ((csrLoc? off.toNat).map (s.csrWrite v)).getD s
  | .ibuf => s.whileIdle { s with ibuf := s.ibuf.write off.toNat (splitBytes v width) }
  | .obuf => s.whileIdle { s with obuf := s.obuf.write off.toNat (splitBytes v width) }
  | .work => s

/-- The response to a host access: OK with the data read (0 for a write), or a bus error (20_memory R66, R67). -/
inductive BusResponse where
  | ok (data : Word)
  | busError
deriving DecidableEq, Repr

/-- The data of a response: a bus-error access reads as 0 (20_memory R66, R67). -/
def BusResponse.data : BusResponse → Word
  | .ok d => d
  | .busError => 0#32

/-- `MemRead(space, off, width)`: a host read. It changes no state (10_state R22, 20_memory R68). -/
def hostRead (s : State) (sp : Space) (off : Offset) (width : Nat) : BusResponse :=
  if accessAllowed s.params sp off width false then .ok (s.spaceRead sp off width) else .busError

/-- `MemWrite(space, off, width, v)`: a host write, its response and the state it leaves. A bus error has no effect
(20_memory R66, R67). -/
def hostWrite (s : State) (sp : Space) (off : Offset) (width : Nat) (v : Word) : BusResponse × State :=
  if accessAllowed s.params sp off width true then (.ok 0#32, s.spaceWrite sp off width v) else (.busError, s)

end Sys2Proof.Machine
end

