-- ==== Sys2Proof/Machine/HostAgent.lean ====
section
/-! DEFINITION. The host agent: one host operation of 30_encoding R100 per step, and how a host step is counted
against the pending completion (40_control R113). -/

namespace Sys2Proof.Machine

open Sys2Proof

/-- The bytes of an access width (R100). -/
def Width.bytes : Width → Nat
  | .byte => 1
  | .half => 2
  | .word => 4

/-- The host operation that is next, none once the host program has ended: at `halt` (R100), or past its last
operation (log entry 4). -/
def State.hostOp? (s : State) : Option HostOp :=
  match s.host.prog[s.host.pc]? with
  | some .halt => none
  | o => o

/-- The host agent has a step to make. -/
def State.hostEnabled (s : State) : Bool := s.hostOp?.isSome

/-- The host moves to operation `pc`; the step is over, so `epoch` advances. -/
def State.hostGoto (s : State) (pc : Nat) : State :=
  { s with host := { s.host with pc := pc }, epoch := s.epoch + 1 }

/-- The host moves to the next operation. -/
def State.hostNext (s : State) : State := s.hostGoto (s.host.pc + 1)

/-- Load the host's scratch register (R100). -/
def State.setAcc (s : State) (v : Word) : State := { s with host := { s.host with acc := v } }

/-- One host step counts against the completion that is pending (40_control R113). -/
def State.countHostStep (s : State) : State := { s with delay := s.delay - 1 }

/-- One host operation (R100). A bus error is a fault of the host program (20_memory R69). -/
def State.runHostOp (s : State) (o : HostOp) : Host.Outcome State Fault Refusal :=
  match o with
  | .wr sp off w v =>
    match hostWrite s sp off w.bytes v with
    | (.ok _, t) => .next t.hostNext
    | (.busError, _) => .fault (.busError sp off w true)
  | .rd sp off w =>
    match hostRead s sp off w.bytes with
    | .ok d => .next (s.setAcc d).hostNext
    | .busError => .fault (.busError sp off w false)
  | .andi v => .next (s.setAcc (s.host.acc &&& v)).hostNext
  | .bnz target => .next (if s.host.acc = 0#32 then s.hostNext else s.hostGoto target)
  | .bz target => .next (if s.host.acc = 0#32 then s.hostGoto target else s.hostNext)
  | .halt => .next s

/-- The host agent's step: its next operation; with none left the machine is idle and its state stays (R200, R214). -/
def hostStep (s : State) : Host.Outcome State Fault Refusal :=
  match s.hostOp? with
  | some o => s.countHostStep.runHostOp o
  | none => .next s

end Sys2Proof.Machine
end

