-- ==== Sys2Proof/Machine/Step.lean ====
section
/-! DEFINITION. One step of the machine: one atomic step of one of its two agents (00_scope R2, 60_exceptions R192). -/

namespace Sys2Proof.Machine

open Sys2Proof

/-- The engine's completion step: `step_engine(s)` of 40_control R112. -/
def engineStep (s : State) : Host.Outcome State Fault Refusal :=
  match decode s.csr.cmd with
  | .error e => .next (s.decodeErrorCompletion e)
  | .ok i => exec i s

/-- One step: the engine's when it is due, else the host's (60_exceptions R192). -/
def step (s : State) : Host.Outcome State Fault Refusal :=
  if s.engineDue s.hostEnabled then engineStep s else hostStep s

/-- `s` with the command word `w` accepted, so that the very next step is its completion step (log entry 5). -/
def State.withFetchWord (s : State) (nbits w : Nat) : State := s.acceptNow (tableWord nbits w)

end Sys2Proof.Machine
end

