-- ==== Sys2Proof/Machine/Assembly.lean ====
section
/-! DEFINITION. The host assembly of 30_encoding R100–R104 as abstract syntax: labelled lines, the pseudo-instructions,
and the resolution of labels into the host operations of State. -/

namespace Sys2Proof.Machine

open Sys2Proof

/-- A line of host assembly (R100); labels are numbers. -/
inductive AsmLine where
  | wr (sp : Space) (off : Offset) (w : Width) (v : Word)
  | rd (sp : Space) (off : Offset) (w : Width)
  | andi (v : Word)
  | bnz (label : Nat)
  | bz (label : Nat)
  | label (name : Nat)
  | halt
deriving DecidableEq, Repr

/-- `cmd M k=v…`: one write of the command word to CMD (R102). -/
def asmCmd (i : Instr) : List AsmLine := [.wr .csr 0x010#34 .word (encode i)]

/-- `wait` with the fresh label `l`: the polling loop on STATUS.BUSY (R103). -/
def asmWait (l : Nat) : List AsmLine := [.label l, .rd .csr 0x00C#34 .word, .andi 1#32, .bnz l]

/-- `wr.bytes SPACE, OFF, b0 b1 …` (R104), in its unmerged expansion. -/
def asmWrBytes (sp : Space) (off : Offset) : List Byte → List AsmLine
  | [] => []
  | b :: bs => .wr sp off .byte (b.setWidth 32) :: asmWrBytes sp (off + 1#34) bs

/-- `rd.bytes SPACE, OFF, k` (R104). -/
def asmRdBytes (sp : Space) (off : Offset) : Nat → List AsmLine
  | 0 => []
  | k + 1 => .rd sp off .byte :: asmRdBytes sp (off + 1#34) k

/-- The operation each label names: the next one (R100). `at_` operations stand before these lines. -/
def labelTable (at_ : Nat) : List AsmLine → List (Nat × Nat)
  | [] => []
  | .label l :: ls => (l, at_) :: labelTable at_ ls
  | _ :: ls => labelTable (at_ + 1) ls

/-- A line as a host operation, given where the labels stand: none for a label line or an unknown label. -/
def asmOp? (tbl : List (Nat × Nat)) : AsmLine → Option HostOp
  | .wr sp off w v => some (.wr sp off w v)
  | .rd sp off w => some (.rd sp off w)
  | .andi v => some (.andi v)
  | .bnz l => (tbl.lookup l).map .bnz
  | .bz l => (tbl.lookup l).map .bz
  | .label _ => none
  | .halt => some .halt

/-- Whether a line names a label rather than being an operation. -/
def AsmLine.isLabel : AsmLine → Bool
  | .label _ => true
  | _ => false

/-- The host program of the lines, none if a branch names a label that no line defines or one is defined twice. -/
def assemble (ls : List AsmLine) : Option (List HostOp) :=
  if ((labelTable 0 ls).map Prod.fst).Nodup then
    (ls.filter fun l => !l.isLabel).mapM (asmOp? (labelTable 0 ls))
  else none

/-- Load a host program into the host agent, to start at its first operation (log entry 4). -/
def State.loadHost (s : State) (prog : List HostOp) : State :=
  { s with host := ⟨prog, 0, 0#32⟩ }

end Sys2Proof.Machine
end

