-- ==== Sys2Proof/Safety.lean ====
section
/-! DEFINITION. What counts as a legal state (the invariants of 00_scope R4, 10_state R24, R47, 41_rle R129, 60_exceptions
R180), and the terms the claims use: what a completion step leaves alone, how it ends, the reference transform of
00_scope R9 and the runs of one stream of 41_rle R131. -/

namespace Sys2Proof.Machine

open Sys2Proof

/-- The ranges of the parameters (00_scope R4). -/
abbrev Params.Legal (p : Params) : Prop :=
  1 ≤ p.ibufBytes ∧ p.ibufBytes ≤ wordMax ∧ 1 ≤ p.obufBytes ∧ p.obufBytes ≤ wordMax ∧ 4 ≤ p.runCap ∧ p.runCap ≤ 259

/-- Every store is in canonical form and holds nothing beyond its size (10_state R41–R45). -/
abbrev State.StoresLegal (s : State) : Prop :=
  s.ibuf.wf s.params.ibufBytes = true ∧ s.obuf.wf s.params.obufBytes = true ∧ s.hist.wf 256 = true ∧
    s.first.wf 256 = true ∧ s.short.wf s.params.ibufBytes = true

/-- Each MTF table is a permutation of 0..255: 256 bytes, no two alike (10_state R40, R47; 43_mtf R166). -/
abbrev State.TablesLegal (s : State) : Prop := s.tblE.toList.Nodup ∧ s.tblD.toList.Nodup

/-- The streaming encoder's state (10_state R46): an active stream keeps sout + cost(pc) ≤ max ≤ OBUF_BYTES and
pc ≤ RLE_RUN_CAP (41_rle R129, 10_state R33); without one no run is pending (70_reset R210, 41_rle R130). -/
abbrev State.StreamLegal (s : State) : Prop :=
  if s.csr.status.rleActive = true then
    s.csr.rleSout.toNat + runCost s.csr.pendingCount.toNat ≤ s.csr.rleCaplim.toNat ∧
      s.csr.rleCaplim.toNat ≤ s.params.obufBytes ∧ s.csr.pendingCount.toNat ≤ s.params.runCap
  else s.csr.pendingByte = 0#8 ∧ s.csr.pendingCount = 0#9

/-- The completion registers agree with STATUS (10_state R24, R28–R31; 60_exceptions R180): a command in flight has no
DONE or ERR, an ERR comes with DONE, ERRCODE is one of the eight codes of R180 and is 0 exactly without ERR once DONE,
an error leaves OUT_LEN and CONSUMED at 0, and no output is longer than OBUF. -/
abbrev State.FlagsLegal (s : State) : Prop :=
  (s.csr.status.busy = true → s.csr.status.done = false ∧ s.csr.status.err = false) ∧
    (s.csr.status.err = true → s.csr.status.done = true ∧ s.csr.outLen = 0#32 ∧ s.csr.consumed = 0#32) ∧
    s.csr.errcode.toNat ≤ 7 ∧ s.csr.outLen.toNat ≤ s.params.obufBytes ∧
    (s.csr.status.done = true → (s.csr.errcode = 0#8 ↔ s.csr.status.err = false))

/-- A legal state. -/
abbrev State.Inv (s : State) : Prop :=
  s.params.Legal ∧ s.StoresLegal ∧ s.TablesLegal ∧ s.StreamLegal ∧ s.FlagsLegal

/-- What no completion step writes (20_memory R62, R63; 40_control R112): the parameters, CMD, the operand registers,
IRQ_EN, CMD_OVR and WR_BUSY, IBUF, and the other agent. -/
def SameOperands (s t : State) : Prop :=
  t.params = s.params ∧ t.csr.cmd = s.csr.cmd ∧ t.csr.len = s.csr.len ∧ t.csr.primary = s.csr.primary ∧
    t.csr.rleMax = s.csr.rleMax ∧ t.csr.irqEn = s.csr.irqEn ∧ t.csr.status.cmdOvr = s.csr.status.cmdOvr ∧
    t.csr.status.wrBusy = s.csr.status.wrBusy ∧ t.ibuf = s.ibuf ∧ t.host = s.host

/-- The streaming encoder's state is unchanged (10_state R46). -/
def SameStream (s t : State) : Prop :=
  t.csr.status.rleActive = s.csr.status.rleActive ∧ t.csr.pendingByte = s.csr.pendingByte ∧
    t.csr.pendingCount = s.csr.pendingCount ∧ t.csr.rleSout = s.csr.rleSout ∧ t.csr.rleCaplim = s.csr.rleCaplim

/-- The MTF tables and MTF_SYM are unchanged (10_state R40, R36). -/
def SameMtf (s t : State) : Prop := t.tblE = s.tblE ∧ t.tblD = s.tblD ∧ t.csr.mtfSym = s.csr.mtfSym

/-- HIST, FIRST and SHORT are unchanged (10_state R41–R43). -/
def SameLf (s t : State) : Prop := t.hist = s.hist ∧ t.first = s.first ∧ t.short = s.short

/-- Index by index, store `m'` is `m` with the values `vs` stored from `a` on; every other index reads as before. -/
def StoredAt {w : Nat} (m m' : Memory w) (a : Nat) (vs : List (BitVec w)) : Prop :=
  ∀ i, m'.read? i = if a ≤ i ∧ i < a + vs.length then vs[i - a]? else m.read? i

/-- Entry by entry, a store of 32-bit entries holds the naturals `ns` at 0, 1, …; every other entry reads as before. -/
def HoldsNats (m m' : Memory 32) (ns : List Nat) : Prop :=
  ∀ i, (m'.read? i).map BitVec.toNat = if i < ns.length then ns[i]? else (m.read? i).map BitVec.toNat

/-- The completion step from `s` ended in `t` by `complete(out_len, consumed)` (40_control R112). -/
def Succeeded (s t : State) (outLen consumed : Nat) : Prop :=
  t.csr.outLen.toNat = outLen ∧ t.csr.consumed.toNat = consumed ∧ t.csr.errcode = 0#8 ∧ t.csr.errinfo = 0#32 ∧
    t.csr.status.busy = false ∧ t.csr.status.done = true ∧ t.csr.status.err = false ∧
    t.csr.irqStatus.done = true ∧ t.csr.irqStatus.err = s.csr.irqStatus.err

/-- The completion step ended in `t` by `error_completion(code, info)` (60_exceptions R184). -/
def Failed (t : State) (code : Byte) (info : Nat) : Prop :=
  t.csr.outLen = 0#32 ∧ t.csr.consumed = 0#32 ∧ t.csr.errcode = code ∧ t.csr.errinfo.toNat = info ∧
    t.csr.status.busy = false ∧ t.csr.status.done = true ∧ t.csr.status.err = true ∧
    t.csr.irqStatus.done = true ∧ t.csr.irqStatus.err = true

/-- A precise error (60_exceptions R185): all state but the registers of R184 is as at acceptance. -/
def FailedPrecisely (s t : State) (code : Byte) (info : Nat) : Prop :=
  Failed t code info ∧ SameOperands s t ∧ SameStream s t ∧ SameMtf s t ∧ SameLf s t ∧ t.obuf = s.obuf

/-- The host accesses 20_memory R65 and R67 allow, written out space by space: a CSR word at a mapped offset
(10_state §2), a WORK word to read, a naturally aligned byte, half-word or word inside IBUF or OBUF. -/
def LegalAccess (p : Params) (sp : Space) (off : Offset) (width : Nat) (write : Bool) : Prop :=
  match sp with
  | .csr => width = 4 ∧ off.toNat % 4 = 0 ∧ (off.toNat ≤ 0x050 ∨ (0x400 ≤ off.toNat ∧ off.toNat ≤ 0xDFC))
  | .work => write = false ∧ width = 4 ∧ off.toNat % 4 = 0 ∧ off.toNat + 4 ≤ 4 * p.ibufBytes
  | .ibuf => (width = 1 ∨ (width = 2 ∧ off.toNat % 2 = 0) ∨ (width = 4 ∧ off.toNat % 4 = 0)) ∧
      off.toNat + width ≤ p.ibufBytes
  | .obuf => (width = 1 ∨ (width = 2 ∧ off.toNat % 2 = 0) ∨ (width = 4 ∧ off.toNat % 4 = 0)) ∧
      off.toNat + width ≤ p.obufBytes

/-- The CSR offsets whose writes take effect while BUSY, or follow a rule of their own (20_memory R70): CTRL, STATUS,
CMD, IRQ_EN, IRQ_STATUS. -/
def WritableWhileBusy (sp : Space) (off : Offset) : Prop :=
  sp = .csr ∧ (off = 0x008#34 ∨ off = 0x00C#34 ∨ off = 0x010#34 ∨ off = 0x040#34 ∨ off = 0x044#34)

/-- `rot(x, i)` (00_scope R9). -/
def rotation (x : List Byte) (i : Nat) : List Byte := x.drop i ++ x.take i

/-- Lexicographic order on byte sequences (00_scope R9). -/
def lexLe : List Byte → List Byte → Bool
  | [], _ => true
  | _ :: _, [] => false
  | a :: as, b :: bs => decide (a.toNat < b.toNat) || (a == b && lexLe as bs)

/-- `(col, p)` is a value of the reference transform `BWT(x)` (00_scope R9): for some order of the rotations, sorted and
with the ties in any order, `col` is the column of last bytes and `p` the row of the unrotated block. -/
def IsBwt (x col : List Byte) (p : Nat) : Prop :=
  (x = [] ∧ col = [] ∧ p = 0) ∨
    ∃ order : List Nat, order.Perm (List.range x.length) ∧
      order.Pairwise (fun i j => lexLe (rotation x i) (rotation x j) = true) ∧
      col = order.map (fun k => x.getD ((k + x.length - 1) % x.length) 0#8) ∧ order[p]? = some 0

/-- Nothing a stream uses has been touched between two of its commands (41_rle R131): the parameters, the stream's state,
and OBUF below its capacity. LEN, IBUF and the rest may have changed. -/
def StreamUntouched (s t : State) : Prop :=
  t.params = s.params ∧ SameStream s t ∧ ∀ i, i < s.csr.rleCaplim.toNat → t.obuf.read? i = s.obuf.read? i

/-- `StreamRun s x`: the machine can be in state `s` after an RLE.SINIT and any number of RLE.SPUSH whose consumed
prefixes, joined, are `x` (41_rle R131). -/
inductive StreamRun : State → List Byte → Prop
  | start (s t : State) : s.params.Legal → s.csr.rleMax.toNat ≤ s.params.obufBytes →
      exec .rleSinit s = .next t → StreamRun t []
  | load (s t : State) (x : List Byte) : StreamRun s x → StreamUntouched s t → StreamRun t x
  | push (s t : State) (x : List Byte) : StreamRun s x → s.csr.len.toNat ≤ s.params.ibufBytes →
      exec .rleSpush s = .next t → StreamRun t (x ++ (s.input s.csr.len.toNat).take t.csr.consumed.toNat)

end Sys2Proof.Machine
end

