-- ==== Sys2Proof/Certificates/Slice0/Obligations.lean ====
section
/-! DEFINITION. The statements about the model, each from the rules of spec/ that its docstring cites. -/

open Sys2Proof Sys2Proof.Machine

/-! ## Encoding -/

/-- Decoding an encoded command gives it back, every operand at every value (30_encoding R97, R102). -/
def Obligations.DecodeInvertsEncode : Prop :=
  ∀ i : Instr, decode (encode i) = .ok i

/-- A word that decodes to a command is the word of that command: each command has exactly one word (R96, R97). -/
def Obligations.EncodeInvertsDecode : Prop :=
  ∀ (w : Word) (i : Instr), decode w = .ok i → encode i = w

/-- The decoder refuses exactly the ill-formed words, the opcode being checked first (R94, R95, R97, R183). -/
def Obligations.DecodeRefusesIllFormedWords : Prop :=
  ∀ w : Word,
    (decode w = .error .illegalOpcode ↔ CommandWord.opcodeAssigned w = false) ∧
    (decode w = .error .reservedField ↔ CommandWord.opcodeAssigned w = true ∧ CommandWord.reservedClear w = false) ∧
    ((∃ i, decode w = .ok i) ↔ CommandWord.wellFormed w = true)

/-- The example words of R93, and the words of R161, R165. -/
def Obligations.ExampleWordsDecode : Prop :=
  decode 0x00000000#32 = .ok .nop ∧ decode 0x00000022#32 = .ok .bwtInv ∧
    decode 0x00000121#32 = .ok (.bwtCsort true) ∧ decode 0x00000330#32 = .ok (.mtfInit true true) ∧
    decode 0x00000131#32 = .ok (.mtfEnc true) ∧ decode 0x00620033#32 = .ok (.mtfEnc1 0x62#8) ∧
    decode 0x00000230#32 = .ok (.mtfInit false true) ∧ decode 0x00FF0034#32 = .ok (.mtfDec1 0xFF#8)

/-! ## The command lifecycle -/

/-- When the engine's step is due (BUSY = 1 and the host steps before the completion have passed, or the host has
none left) and the latched word decodes to a command, the machine's step is that command's meaning and nothing else
(40_control R112). When the step is due follows the model's own field `delay` (log entry 3). -/
def Obligations.StepRunsDecodedCommand : Prop :=
  ∀ (s : State) (i : Instr), s.csr.status.busy = true → (s.delay = 0 ∨ s.hostOp? = none) →
    decode s.csr.cmd = .ok i → step s = exec i s

/-- A command with an unassigned opcode ends in ILLEGAL_OPCODE, whatever its other bits (30_encoding R94); one with
an assigned opcode and a 1 outside its format's mask ends in RESERVED_FIELD and has no other effect (R95). ERRINFO
is the command word (60_exceptions R181). When the step is due follows the model's own field `delay` (log entry 3). -/
def Obligations.UndecodableCommandsEndInError : Prop :=
  ∀ s : State, s.csr.status.busy = true → (s.delay = 0 ∨ s.hostOp? = none) →
    (CommandWord.opcodeAssigned s.csr.cmd = false →
      ∃ t, step s = .next t ∧ FailedPrecisely s t 0x01#8 s.csr.cmd.toNat) ∧
    (CommandWord.opcodeAssigned s.csr.cmd = true → CommandWord.reservedClear s.csr.cmd = false →
      ∃ t, step s = .next t ∧ FailedPrecisely s t 0x02#8 s.csr.cmd.toNat)

/-- Acceptance (40_control R111): a CMD write while idle latches the word, any word, sets BUSY and clears DONE and
ERR; nothing else of the BTE changes. The model's own field `delay` takes some value d (log entry 3); the statement
says nothing about d. -/
def Obligations.CommandWriteWhileIdleIsAccepted : Prop :=
  ∀ (s : State) (w : Word), s.csr.status.busy = false →
    ∃ d, hostWrite s .csr 0x010#34 4 w = (.ok 0#32,
      { s with
        csr := { s.csr with
          cmd := w
          status := { s.csr.status with busy := true, done := false, err := false } }
        delay := d })

/-- A CMD write while BUSY is dropped with an OK response and sets CMD_OVR only; the running command completes as if the
write had not happened (40_control R114). -/
def Obligations.CommandWriteWhileBusyOnlySetsOverrun : Prop :=
  ∀ (s : State) (w : Word), s.csr.status.busy = true →
    hostWrite s .csr 0x010#34 4 w = (.ok 0#32,
      { s with csr := { s.csr with status := { s.csr.status with cmdOvr := true } } }) ∧
    ∀ u, engineStep s = .next u →
      engineStep (hostWrite s .csr 0x010#34 4 w).2 = .next
        { u with csr := { u.csr with status := { u.csr.status with cmdOvr := true } } }

/-- While a command waits for its completion step, no host step but a soft reset (after which BUSY = 0) changes what
it reads: CMD, LEN, PRIMARY, RLE_MAX, IBUF, HIST, the MTF tables, the streaming state (70_reset R222, 20_memory
R75). The premise 0 < delay is the model's own field: the completion is not due yet (log entry 3). -/
def Obligations.OperandsFixedWhileBusy : Prop :=
  ∀ s t : State, s.csr.status.busy = true → 0 < s.delay → s.hostOp? ≠ none → step s = .next t →
    t.csr.status.busy = true →
    t.csr.cmd = s.csr.cmd ∧ t.csr.len = s.csr.len ∧ t.csr.primary = s.csr.primary ∧ t.csr.rleMax = s.csr.rleMax ∧
      t.ibuf = s.ibuf ∧ t.hist = s.hist ∧ t.tblE = s.tblE ∧ t.tblD = s.tblD ∧ SameStream s t ∧ t.params = s.params

/-- A command cannot hang (40_control R113, 70_reset R220): each host step that leaves it in flight brings its
completion nearer by one, and when the engine is due the step completes the command. The bound is the model's own
field `delay`, a free value drawn at acceptance (log entry 3); the statement holds for every value of it. -/
def Obligations.AcceptedCommandIsCompleted : Prop :=
  (∀ s t : State, s.csr.status.busy = true → 0 < s.delay → s.hostOp? ≠ none → step s = .next t →
    t.csr.status.busy = true → t.delay + 1 = s.delay) ∧
  (∀ s : State, s.csr.status.busy = true → (s.delay = 0 ∨ s.hostOp? = none) →
    ∃ t, step s = .next t ∧ t.csr.status.busy = false ∧ t.csr.status.done = true)

/-! ## Host accesses -/

/-- Which host accesses get OK and which a bus error; a bus error has no effect and reads as 0 (20_memory R65, R66,
R67). For a BUSY state the last clause is the model's reading (DEDUCED, log entry 8): legality is checked before the BUSY
rule of R70, so an illegal write while BUSY gets a bus error and does not set WR_BUSY. -/
def Obligations.BusErrorsExactlyOnIllegalAccesses : Prop :=
  ∀ (s : State) (sp : Space) (off : Offset) (width : Nat) (v : Word),
    (LegalAccess s.params sp off width false → ∃ d, hostRead s sp off width = .ok d) ∧
    (¬ LegalAccess s.params sp off width false →
      hostRead s sp off width = .busError ∧ (hostRead s sp off width).data = 0#32) ∧
    (LegalAccess s.params sp off width true → ∃ t, hostWrite s sp off width v = (.ok 0#32, t)) ∧
    (¬ LegalAccess s.params sp off width true → hostWrite s sp off width v = (.busError, s))

/-- In a run, a bus error is a fault of the host program that made the access (20_memory R69). That the run stops
there is the model's reading of R69 (DEDUCED, log entry 7), and that an illegal write while BUSY is one, rather than
a dropped write, is its reading of R66, R67 and R70 (DEDUCED, log entry 8). The host agent as a part of State is the
model's form (log entry 4); delay is its own field (log entry 3). -/
def Obligations.BusErrorFaultsTheHostProgram : Prop :=
  ∀ (s : State) (sp : Space) (off : Offset) (w : Width) (v : Word),
    (s.csr.status.busy = false ∨ 0 < s.delay) →
    (s.hostOp? = some (.wr sp off w v) → ¬ LegalAccess s.params sp off w.bytes true →
      step s = .fault (.busError sp off w true)) ∧
    (s.hostOp? = some (.rd sp off w) → ¬ LegalAccess s.params sp off w.bytes false →
      step s = .fault (.busError sp off w false))

/-- The host operations of 30_encoding R100: a legal `wr` leaves the state that the host write leaves, with the host at its
next operation; `rd` loads `acc` and changes no BTE state (10_state R22); `andi`, `bnz` and `bz` touch the host only;
after the last operation the machine stays as it is. The host agent in State, and the idle step, are the model's choice
(log entry 4); counting the step in `delay` and `epoch` is too (log entries 3 and 2). -/
def Obligations.HostOperationsRun : Prop :=
  ∀ s : State, (s.csr.status.busy = false ∨ 0 < s.delay) →
    (∀ sp off w v, s.hostOp? = some (.wr sp off w v) → LegalAccess s.params sp off w.bytes true →
      ∃ t, hostWrite { s with delay := s.delay - 1 } sp off w.bytes v = (.ok 0#32, t) ∧
        step s = .next { t with host := ⟨s.host.prog, s.host.pc + 1, s.host.acc⟩, epoch := s.epoch + 1 }) ∧
    (∀ sp off w d, s.hostOp? = some (.rd sp off w) → hostRead s sp off w.bytes = .ok d →
      step s = .next { s with host := ⟨s.host.prog, s.host.pc + 1, d⟩, delay := s.delay - 1, epoch := s.epoch + 1 }) ∧
    (∀ v, s.hostOp? = some (.andi v) →
      step s = .next { s with
        host := ⟨s.host.prog, s.host.pc + 1, s.host.acc &&& v⟩, delay := s.delay - 1, epoch := s.epoch + 1 }) ∧
    (∀ l, s.hostOp? = some (.bnz l) →
      step s = .next { s with
        host := ⟨s.host.prog, if s.host.acc = 0#32 then s.host.pc + 1 else l, s.host.acc⟩
        delay := s.delay - 1, epoch := s.epoch + 1 }) ∧
    (∀ l, s.hostOp? = some (.bz l) →
      step s = .next { s with
        host := ⟨s.host.prog, if s.host.acc = 0#32 then l else s.host.pc + 1, s.host.acc⟩
        delay := s.delay - 1, epoch := s.epoch + 1 }) ∧
    (s.csr.status.busy = false → s.hostOp? = none → step s = .next s)

/-- A legal host write to IBUF or OBUF while idle stores the bytes little-endian and changes nothing else, and reading
the place back gives the low bytes of the value (20_memory R64). -/
def Obligations.BufferWritesAreLittleEndian : Prop :=
  ∀ (s : State) (off : Offset) (width : Nat) (v : Word), s.csr.status.busy = false →
    (LegalAccess s.params .ibuf off width true →
      ∃ m, hostWrite s .ibuf off width v = (.ok 0#32, { s with ibuf := m }) ∧
        (∀ i, m.read? i = if off.toNat ≤ i ∧ i < off.toNat + width then some (v.extractLsb' (8 * (i - off.toNat)) 8)
          else s.ibuf.read? i) ∧
        (hostRead { s with ibuf := m } .ibuf off width).data.toNat = v.toNat % 2 ^ (8 * width)) ∧
    (LegalAccess s.params .obuf off width true →
      ∃ m, hostWrite s .obuf off width v = (.ok 0#32, { s with obuf := m }) ∧
        (∀ i, m.read? i = if off.toNat ≤ i ∧ i < off.toNat + width then some (v.extractLsb' (8 * (i - off.toNat)) 8)
          else s.obuf.read? i) ∧
        (hostRead { s with obuf := m } .obuf off width).data.toNat = v.toNat % 2 ^ (8 * width))

/-- Idle host writes to the operand registers and to HIST store the value and change nothing else (10_state R26, R27, R32,
R41); a write to a read-only register or table is ignored with an OK response (R22). -/
def Obligations.IdleRegisterWrites : Prop :=
  ∀ (s : State) (v : Word), s.csr.status.busy = false →
    hostWrite s .csr 0x014#34 4 v = (.ok 0#32, { s with csr := { s.csr with len := v } }) ∧
    hostWrite s .csr 0x018#34 4 v = (.ok 0#32, { s with csr := { s.csr with primary := v } }) ∧
    hostWrite s .csr 0x02C#34 4 v = (.ok 0#32, { s with csr := { s.csr with rleMax := v } }) ∧
    (∀ b, b < 256 → ∃ m, hostWrite s .csr (BitVec.ofNat 34 (0x400 + 4 * b)) 4 v = (.ok 0#32, { s with hist := m }) ∧
      ∀ i, m.read? i = if i = b then some v else s.hist.read? i) ∧
    (∀ off : Offset, off ∈ [0x000#34, 0x004#34, 0x01C#34, 0x020#34, 0x024#34, 0x028#34, 0x030#34, 0x034#34, 0x038#34,
        0x03C#34, 0x048#34, 0x04C#34, 0x050#34] → hostWrite s .csr off 4 v = (.ok 0#32, s)) ∧
    (∀ k, k < 384 → hostWrite s .csr (BitVec.ofNat 34 (0x800 + 4 * k)) 4 v = (.ok 0#32, s))

/-- Host writes while BUSY (20_memory R70): every legal one but those to CTRL, STATUS, CMD, IRQ_EN and IRQ_STATUS is
dropped with an OK response and sets WR_BUSY only; that this takes in the read-only places is the model's reading of
"every host write" (DEDUCED, log entry 8). The five exceptions take effect, idle or BUSY: a write to STATUS or IRQ_STATUS
clears the W1C bits written as 1 (10_state R24, R38), one to IRQ_EN stores its two bits (R37), one to CTRL with bit 0 = 0
does nothing and with bit 0 = 1 resets the registers, BUSY among them (R23), and one to CMD sets CMD_OVR and nothing
else while BUSY (40_control R114). -/
def Obligations.WritesWhileBusyAreDropped : Prop :=
  (∀ (s : State) (sp : Space) (off : Offset) (width : Nat) (v : Word), s.csr.status.busy = true →
    LegalAccess s.params sp off width true → ¬ WritableWhileBusy sp off →
    hostWrite s sp off width v = (.ok 0#32,
      { s with csr := { s.csr with status := { s.csr.status with wrBusy := true } } })) ∧
  (∀ (s : State) (v : Word),
    hostWrite s .csr 0x00C#34 4 v = (.ok 0#32, { s with csr := { s.csr with
      status := { s.csr.status with
        cmdOvr := s.csr.status.cmdOvr && !v.getLsbD 3
        wrBusy := s.csr.status.wrBusy && !v.getLsbD 4 } } }) ∧
    hostWrite s .csr 0x040#34 4 v = (.ok 0#32, { s with csr := { s.csr with
      irqEn := ⟨v.getLsbD 0, v.getLsbD 1⟩ } }) ∧
    hostWrite s .csr 0x044#34 4 v = (.ok 0#32, { s with csr := { s.csr with
      irqStatus := ⟨s.csr.irqStatus.done && !v.getLsbD 0, s.csr.irqStatus.err && !v.getLsbD 1⟩ } }) ∧
    (v.getLsbD 0 = false → hostWrite s .csr 0x008#34 4 v = (.ok 0#32, s)) ∧
    (v.getLsbD 0 = true → ∃ t, hostWrite s .csr 0x008#34 4 v = (.ok 0#32, t) ∧ t.csr = State.reset.csr) ∧
    (s.csr.status.busy = true → hostWrite s .csr 0x010#34 4 v = (.ok 0#32,
      { s with csr := { s.csr with status := { s.csr.status with cmdOvr := true } } })))

/-- Acknowledge (60_exceptions R191): a write to IRQ_STATUS, also while BUSY, clears each bit written as 1 and leaves each
bit written as 0; `irq` falls in the same step if no enabled pending bit remains; a completion after it sets DONE_IP
again. -/
def Obligations.AcknowledgeClearsWrittenBits : Prop :=
  ∀ (s : State) (v : Word), ∃ t, hostWrite s .csr 0x044#34 4 v = (.ok 0#32, t) ∧
    t = { s with csr := { s.csr with irqStatus := t.csr.irqStatus } } ∧
    t.csr.irqStatus.done = (s.csr.irqStatus.done && !v.getLsbD 0) ∧
    t.csr.irqStatus.err = (s.csr.irqStatus.err && !v.getLsbD 1) ∧
    ((t.csr.irqStatus.done && t.csr.irqEn.done) = false → (t.csr.irqStatus.err && t.csr.irqEn.err) = false →
      t.irq = false) ∧
    ∀ u, engineStep t = .next u → u.csr.irqStatus.done = true ∧ (u.csr.status.err = true → u.csr.irqStatus.err = true)

/-- Two busy states that agree on the parameters and the step number give the same answer to every host read of
OBUF, WORK, HIST, FIRST, TBL_E and TBL_D: what is read is a draw and says nothing of their contents (20_memory R71).
The parameters and the step number, by which the free values are indexed (log entry 2), are equal in the two states. -/
def Obligations.BusyReadsRevealNothing : Prop :=
  ∀ (s t : State) (sp : Space) (off : Offset) (width : Nat), s.csr.status.busy = true → t.csr.status.busy = true →
    t.params = s.params → t.epoch = s.epoch →
    (sp = .obuf ∨ sp = .work ∨ (sp = .csr ∧ 0x400 ≤ off.toNat)) → hostRead t sp off width = hostRead s sp off width

/-- What the CSR registers read, idle or BUSY (10_state §2, R21–R25, R33, R39): constants, fields in their places,
reserved bits 0. -/
def Obligations.RegistersReadTheirValues : Prop :=
  ∀ s : State,
    hostRead s .csr 0x000#34 4 = .ok 0x42544531#32 ∧ hostRead s .csr 0x004#34 4 = .ok 0x00010000#32 ∧
    hostRead s .csr 0x008#34 4 = .ok 0#32 ∧
    (∃ w, hostRead s .csr 0x00C#34 4 = .ok w ∧ w.toNat < 64 ∧
      w.getLsbD 0 = s.csr.status.busy ∧ w.getLsbD 1 = s.csr.status.done ∧ w.getLsbD 2 = s.csr.status.err ∧
      w.getLsbD 3 = s.csr.status.cmdOvr ∧ w.getLsbD 4 = s.csr.status.wrBusy ∧
      w.getLsbD 5 = s.csr.status.rleActive) ∧
    hostRead s .csr 0x010#34 4 = .ok s.csr.cmd ∧ hostRead s .csr 0x014#34 4 = .ok s.csr.len ∧
    hostRead s .csr 0x018#34 4 = .ok s.csr.primary ∧ hostRead s .csr 0x01C#34 4 = .ok s.csr.outLen ∧
    hostRead s .csr 0x020#34 4 = .ok s.csr.consumed ∧
    hostRead s .csr 0x024#34 4 = .ok (BitVec.ofNat 32 s.csr.errcode.toNat) ∧
    hostRead s .csr 0x028#34 4 = .ok s.csr.errinfo ∧ hostRead s .csr 0x02C#34 4 = .ok s.csr.rleMax ∧
    hostRead s .csr 0x030#34 4 =
      .ok (BitVec.ofNat 32 (s.csr.pendingByte.toNat + 256 * s.csr.pendingCount.toNat)) ∧
    hostRead s .csr 0x034#34 4 = .ok s.csr.rleSout ∧ hostRead s .csr 0x038#34 4 = .ok s.csr.rleCaplim ∧
    hostRead s .csr 0x03C#34 4 = .ok (BitVec.ofNat 32 s.csr.mtfSym.toNat) ∧
    (∃ w, hostRead s .csr 0x040#34 4 = .ok w ∧ w.toNat < 4 ∧
      w.getLsbD 0 = s.csr.irqEn.done ∧ w.getLsbD 1 = s.csr.irqEn.err) ∧
    (∃ w, hostRead s .csr 0x044#34 4 = .ok w ∧ w.toNat < 4 ∧
      w.getLsbD 0 = s.csr.irqStatus.done ∧ w.getLsbD 1 = s.csr.irqStatus.err) ∧
    hostRead s .csr 0x048#34 4 = .ok (BitVec.ofNat 32 s.params.ibufBytes) ∧
    hostRead s .csr 0x04C#34 4 = .ok (BitVec.ofNat 32 s.params.obufBytes) ∧
    hostRead s .csr 0x050#34 4 = .ok (BitVec.ofNat 32 s.params.runCap)

/-- While idle, the host reads the tables: HIST[b] and FIRST[b] where they are specified (10_state R41, R42), four table
entries per word, entry 4w+k in bits [8k+7:8k], of TBL_E at 0xC00 and of TBL_D at 0xD00 (R40), SHORT[i] at 4·i of
WORK (R43). A legal read of OBUF while idle, and one of IBUF at any time, BUSY too (20_memory R71), returns the specified
bytes, whoever wrote them, little-endian and zero above the width (R44, R45, 20_memory R64). -/
def Obligations.IdleTableReads : Prop :=
  (∀ (s : State) (off : Offset) (width : Nat), LegalAccess s.params .ibuf off width false →
    ∃ d, hostRead s .ibuf off width = .ok d ∧ d.toNat < 2 ^ (8 * width) ∧
      ∀ k b, k < width → s.ibuf.read? (off.toNat + k) = some b → d.extractLsb' (8 * k) 8 = b) ∧
  ∀ s : State, s.csr.status.busy = false →
    (∀ (off : Offset) (width : Nat), LegalAccess s.params .obuf off width false →
      ∃ d, hostRead s .obuf off width = .ok d ∧ d.toNat < 2 ^ (8 * width) ∧
        ∀ k b, k < width → s.obuf.read? (off.toNat + k) = some b → d.extractLsb' (8 * k) 8 = b) ∧
    (∀ b v, b < 256 → s.hist.read? b = some v → hostRead s .csr (BitVec.ofNat 34 (0x400 + 4 * b)) 4 = .ok v) ∧
    (∀ b v, b < 256 → s.first.read? b = some v → hostRead s .csr (BitVec.ofNat 34 (0x800 + 4 * b)) 4 = .ok v) ∧
    (∀ w k, w < 64 → k < 4 → ∃ d e, hostRead s .csr (BitVec.ofNat 34 (0xC00 + 4 * w)) 4 = .ok d ∧
      hostRead s .csr (BitVec.ofNat 34 (0xD00 + 4 * w)) 4 = .ok e ∧
      s.tblE[4 * w + k]? = some (d.extractLsb' (8 * k) 8) ∧ s.tblD[4 * w + k]? = some (e.extractLsb' (8 * k) 8)) ∧
    (∀ i v, i < s.params.ibufBytes → s.params.ibufBytes ≤ wordMax → s.short.read? i = some v →
      hostRead s .work (BitVec.ofNat 34 (4 * i)) 4 = .ok v)

/-- Soft reset, by a CTRL write with bit 0 = 1. While idle (70_reset R211): CSRs, tables and streaming encoder as after
power-on, IBUF, OBUF, HIST, FIRST and SHORT kept. While BUSY (R212) it also aborts the command (BUSY = 0, no DONE, ERR
or pending bit) and leaves every entry of OBUF, HIST, FIRST and SHORT unspecified. That the host agent goes on as it
was is the model's reading (DEDUCED, log entry 9). -/
def Obligations.SoftResetRestoresTheRegisters : Prop :=
  ∀ (s : State) (v : Word), v.getLsbD 0 = true →
    ∃ t, hostWrite s .csr 0x008#34 4 v = (.ok 0#32, t) ∧
      t.csr = State.reset.csr ∧ t.tblE = State.reset.tblE ∧ t.tblD = State.reset.tblD ∧
      t.ibuf = s.ibuf ∧ t.params = s.params ∧ t.host = s.host ∧
      (s.csr.status.busy = false →
        t.obuf = s.obuf ∧ t.hist = s.hist ∧ t.first = s.first ∧ t.short = s.short) ∧
      (s.csr.status.busy = true →
        ∀ i, t.obuf.read? i = none ∧ t.hist.read? i = none ∧ t.first.read? i = none ∧ t.short.read? i = none)

/-- Power-on reset (70_reset R210): every variable CSR 0, `irq` low, identity tables, every buffer and LF table
unspecified. -/
def Obligations.PowerOnState : Prop :=
  State.reset.csr = ⟨⟨false, false, false, false, false, false⟩, 0#32, 0#32, 0#32, 0#32, 0#32, 0#8, 0#32, 0#32, 0#8, 0#9,
      0#32, 0#32, 0#8, ⟨false, false⟩, ⟨false, false⟩⟩ ∧
    State.reset.irq = false ∧
    (∀ i : Fin 256, State.reset.tblE[i] = BitVec.ofNat 8 i ∧ State.reset.tblD[i] = BitVec.ofNat 8 i) ∧
    ∀ i, State.reset.ibuf.read? i = none ∧ State.reset.obuf.read? i = none ∧ State.reset.hist.read? i = none ∧
      State.reset.first.read? i = none ∧ State.reset.short.read? i = none

/-! ## Every completion step -/

/-- Every command, in every state, ends in one step with a next state: idle, DONE, DONE_IP pending, with CMD, the operand
registers, IRQ_EN, the overrun flags and IBUF as they were (40_control R112, R113; 20_memory R62, R63). -/
def Obligations.EveryCommandCompletes : Prop :=
  ∀ (i : Instr) (s : State), ∃ t, exec i s = .next t ∧ t.csr.status.busy = false ∧ t.csr.status.done = true ∧
    t.csr.irqStatus.done = true ∧ SameOperands s t

/-- Precision (60_exceptions R185): after an error completion, all state but the registers of R184 is as at acceptance;
only OUT_OVERFLOW of RLE.ENC and RLE.DEC leaves every byte of OBUF unspecified. -/
def Obligations.ErrorsArePrecise : Prop :=
  ∀ s t : State, engineStep s = .next t → t.csr.status.err = true →
    Failed t t.csr.errcode t.csr.errinfo.toNat ∧ SameOperands s t ∧ SameStream s t ∧ SameMtf s t ∧ SameLf s t ∧
    ((t.csr.errcode = 0x05#8 ∧ (s.csr.cmd = 0x00000010#32 ∨ s.csr.cmd = 0x00000011#32)) →
      ∀ i, t.obuf.read? i = none) ∧
    (¬ (t.csr.errcode = 0x05#8 ∧ (s.csr.cmd = 0x00000010#32 ∨ s.csr.cmd = 0x00000011#32)) → t.obuf = s.obuf)

/-- The interrupt output (60_exceptions R190): `irq` is (DONE_IP ∧ DONE_IE) ∨ (ERR_IP ∧ ERR_IE); every completion sets
DONE_IP and an error completion ERR_IP, enabled or not; a completion changes no enable bit. -/
def Obligations.InterruptFollowsPendingAndEnable : Prop :=
  (∀ s : State, s.irq = true ↔ (s.csr.irqStatus.done = true ∧ s.csr.irqEn.done = true) ∨
    (s.csr.irqStatus.err = true ∧ s.csr.irqEn.err = true)) ∧
  (∀ s t : State, engineStep s = .next t → t.csr.irqStatus.done = true ∧
    t.csr.irqStatus.err = (s.csr.irqStatus.err || t.csr.status.err) ∧ t.csr.irqEn = s.csr.irqEn)

/-- Which commands write what (10_state R33, R34, R36, R40–R43; 42_bwt_inverse R143; 43_mtf R161): the streaming state by
the stream commands only, MTF_SYM by the one-symbol commands, TBL_E by MTF.INIT, MTF.ENC and MTF.ENC1, TBL_D by
MTF.INIT, MTF.DEC and MTF.DEC1, HIST and FIRST by the three BWT commands, SHORT by BWT.INV, and OBUF not by NOP,
RLE.SINIT, BWT.HIST, MTF.INIT and the one-symbol commands. -/
def Obligations.OnlyTheNamedCommandsWrite : Prop :=
  ∀ (i : Instr) (s t : State), exec i s = .next t →
    (i ∉ [.rleSinit, .rleSpush, .rleSfin] → SameStream s t) ∧
    ((∀ x, i ≠ .mtfEnc1 x ∧ i ≠ .mtfDec1 x) → t.csr.mtfSym = s.csr.mtfSym) ∧
    ((∀ e d x, i ≠ .mtfInit e d ∧ i ≠ .mtfEnc e ∧ i ≠ .mtfEnc1 x) → t.tblE = s.tblE) ∧
    ((∀ e d x, i ≠ .mtfInit e d ∧ i ≠ .mtfDec e ∧ i ≠ .mtfDec1 x) → t.tblD = s.tblD) ∧
    (i ∉ [.bwtHist, .bwtCsort true, .bwtCsort false, .bwtInv] → t.hist = s.hist ∧ t.first = s.first) ∧
    (i ≠ .bwtInv → t.short = s.short) ∧
    ((i ∈ [.nop, .rleSinit, .bwtHist] ∨ ∃ e d x, i = .mtfInit e d ∨ i = .mtfEnc1 x ∨ i = .mtfDec1 x) →
      t.obuf = s.obuf)

/-! ## The commands -/

/-- NOP (40_control R110): only the completion registers change. -/
def Obligations.NopOnlyCompletes : Prop :=
  ∀ s : State, ∃ t, exec .nop s = .next t ∧ Succeeded s t 0 0 ∧ SameOperands s t ∧ SameStream s t ∧ SameMtf s t ∧
    SameLf s t ∧ t.obuf = s.obuf

/-- RLE.ENC (41_rle R125): when LEN ≤ IBUF_BYTES and the encoding fits OBUF, OBUF[0..|e|) is the encoding of the input and
nothing else is written. -/
def Obligations.RleEncWritesEncoding : Prop :=
  ∀ s : State, s.params.Legal → s.csr.len.toNat ≤ s.params.ibufBytes →
    (rleEnc s.params.runCap (s.input s.csr.len.toNat)).length ≤ s.params.obufBytes →
    ∃ t, exec .rleEnc s = .next t ∧
      Succeeded s t (rleEnc s.params.runCap (s.input s.csr.len.toNat)).length s.csr.len.toNat ∧
      StoredAt s.obuf t.obuf 0 (rleEnc s.params.runCap (s.input s.csr.len.toNat)) ∧
      SameOperands s t ∧ SameStream s t ∧ SameMtf s t ∧ SameLf s t

/-- RLE.DEC (41_rle R127): the same with the decoding of the input. -/
def Obligations.RleDecWritesDecoding : Prop :=
  ∀ s : State, s.params.Legal → s.csr.len.toNat ≤ s.params.ibufBytes →
    (rleDec (s.input s.csr.len.toNat)).length ≤ s.params.obufBytes →
    ∃ t, exec .rleDec s = .next t ∧
      Succeeded s t (rleDec (s.input s.csr.len.toNat)).length s.csr.len.toNat ∧
      StoredAt s.obuf t.obuf 0 (rleDec (s.input s.csr.len.toNat)) ∧
      SameOperands s t ∧ SameStream s t ∧ SameMtf s t ∧ SameLf s t

/-- RLE.SINIT (41_rle R128): when RLE_MAX ≤ OBUF_BYTES the stream is active and empty with capacity RLE_MAX; OBUF is not
cleared. -/
def Obligations.RleSinitStartsStream : Prop :=
  ∀ s : State, s.csr.rleMax.toNat ≤ s.params.obufBytes →
    ∃ t, exec .rleSinit s = .next t ∧ Succeeded s t 0 0 ∧ t.csr.status.rleActive = true ∧ t.csr.pendingByte = 0#8 ∧
      t.csr.pendingCount = 0#9 ∧ t.csr.rleSout = 0#32 ∧ t.csr.rleCaplim = s.csr.rleMax ∧
      SameOperands s t ∧ SameMtf s t ∧ SameLf s t ∧ t.obuf = s.obuf

/-- RLE.SPUSH (41_rle R129): with an active stream and LEN ≤ IBUF_BYTES the push loop runs over the input: its flushed
bytes go to OBUF[sout..), the stream state and the completion registers take its variables, and
sout + cost(pc) ≤ max still holds. -/
def Obligations.RleSpushRunsThePushLoop : Prop :=
  ∀ (s : State) (p : PushLoop), s.params.Legal → s.StreamLegal → s.csr.status.rleActive = true →
    s.csr.len.toNat ≤ s.params.ibufBytes →
    p = pushLoop s.params.runCap s.csr.rleCaplim.toNat s.csr.rleSout.toNat
      ⟨s.csr.pendingByte, s.csr.pendingCount.toNat, [], 0⟩ (s.input s.csr.len.toNat) →
    ∃ t, exec .rleSpush s = .next t ∧ Succeeded s t (s.csr.rleSout.toNat + p.flushed.length) p.k ∧
      StoredAt s.obuf t.obuf s.csr.rleSout.toNat p.flushed ∧
      t.csr.status.rleActive = true ∧ t.csr.pendingByte = p.pb ∧ t.csr.pendingCount.toNat = p.pc ∧
      t.csr.rleSout.toNat = s.csr.rleSout.toNat + p.flushed.length ∧ t.csr.rleCaplim = s.csr.rleCaplim ∧
      t.csr.rleSout.toNat + runCost t.csr.pendingCount.toNat ≤ t.csr.rleCaplim.toNat ∧
      SameOperands s t ∧ SameMtf s t ∧ SameLf s t

/-- The rounds of the push loop (41_rle R129): what one byte does to a pending run, when a byte stops the loop, and its end
when no byte is left. -/
def Obligations.PushLoopRound : Prop :=
  ∀ (cap max sout : Nat) (p : PushLoop) (b : Byte) (bs : List Byte),
    (0 < p.pc → b = p.pb → p.pc < cap → sout + p.flushed.length + runCost (p.pc + 1) ≤ max →
      pushLoop cap max sout p (b :: bs) = pushLoop cap max sout { p with pc := p.pc + 1, k := p.k + 1 } bs) ∧
    (0 < p.pc → b = p.pb → p.pc < cap → max < sout + p.flushed.length + runCost (p.pc + 1) →
      pushLoop cap max sout p (b :: bs) = p) ∧
    ((p.pc = 0 ∨ b ≠ p.pb ∨ cap ≤ p.pc) → sout + p.flushed.length + runCost p.pc + 1 ≤ max →
      pushLoop cap max sout p (b :: bs) =
        pushLoop cap max sout ⟨b, 1, p.flushed ++ encodeRun p.pb p.pc, p.k + 1⟩ bs) ∧
    ((p.pc = 0 ∨ b ≠ p.pb ∨ cap ≤ p.pc) → max < sout + p.flushed.length + runCost p.pc + 1 →
      pushLoop cap max sout p (b :: bs) = p) ∧
    pushLoop cap max sout p [] = p

/-- RLE.SFIN (41_rle R130): with an active stream the pending run goes to OBUF[sout..), the stream ends, RLE_CAPLIM keeps
its value; the flush fits the capacity. -/
def Obligations.RleSfinFlushesPendingRun : Prop :=
  ∀ (s : State) (f : List Byte), s.params.Legal → s.StreamLegal → s.csr.status.rleActive = true →
    f = encodeRun s.csr.pendingByte s.csr.pendingCount.toNat →
    ∃ t, exec .rleSfin s = .next t ∧ Succeeded s t (s.csr.rleSout.toNat + f.length) 0 ∧
      StoredAt s.obuf t.obuf s.csr.rleSout.toNat f ∧ s.csr.rleSout.toNat + f.length ≤ s.csr.rleCaplim.toNat ∧
      t.csr.status.rleActive = false ∧ t.csr.pendingByte = 0#8 ∧ t.csr.pendingCount = 0#9 ∧
      t.csr.rleSout.toNat = s.csr.rleSout.toNat + f.length ∧ t.csr.rleCaplim = s.csr.rleCaplim ∧
      SameOperands s t ∧ SameMtf s t ∧ SameLf s t

/-- BWT.HIST (42_bwt_inverse R143): HIST[b] is the number of b's in the input, FIRST[b] the number of smaller bytes;
SHORT and OBUF are not written. -/
def Obligations.BwtHistCountsInput : Prop :=
  ∀ s : State, s.params.Legal → s.csr.len.toNat ≤ s.params.ibufBytes →
    ∃ t, exec .bwtHist s = .next t ∧ Succeeded s t 0 s.csr.len.toNat ∧
      HoldsNats s.hist t.hist (histogram (s.input s.csr.len.toNat)) ∧
      HoldsNats s.first t.first (cumulative (histogram (s.input s.csr.len.toNat))) ∧
      t.short = s.short ∧ t.obuf = s.obuf ∧ SameOperands s t ∧ SameStream s t ∧ SameMtf s t

/-- BWT.CSORT (42_bwt_inverse R144), for the histogram `h` of the input (H = 1, LEN ≤ IBUF_BYTES) or of HIST as it stands
(H = 0): when Σ h ≤ OBUF_BYTES, HIST ← h, FIRST ← cum(h), OBUF[0..Σ h) the sorted bytes, CONSUMED = LEN or 0. -/
def Obligations.BwtCsortWritesSortedBytes : Prop :=
  ∀ (s : State) (h : Bool) (hs : List Nat), s.params.Legal →
    (if h = true then s.csr.len.toNat ≤ s.params.ibufBytes ∧ hs = histogram (s.input s.csr.len.toNat)
      else hs = s.histCounts) →
    hs.sum ≤ s.params.obufBytes →
    ∃ t, exec (.bwtCsort h) s = .next t ∧ Succeeded s t hs.sum (if h = true then s.csr.len.toNat else 0) ∧
      HoldsNats s.hist t.hist hs ∧ HoldsNats s.first t.first (cumulative hs) ∧
      StoredAt s.obuf t.obuf 0 (sortedColumn hs) ∧ t.short = s.short ∧
      SameOperands s t ∧ SameStream s t ∧ SameMtf s t

/-- BWT.INV (42_bwt_inverse R146, R147): when its three checks pass, HIST, FIRST and SHORT hold the tables of the column
and OBUF[0..n) the block of the walk; SHORT and OBUF from n on are unchanged. -/
def Obligations.BwtInvWritesBlockAndTables : Prop :=
  ∀ (s : State) (col : List Byte), s.params.Legal → s.csr.len.toNat ≤ s.params.ibufBytes →
    (0 < s.csr.len.toNat → s.csr.primary.toNat < s.csr.len.toNat) → s.csr.len.toNat ≤ s.params.obufBytes →
    col = s.input s.csr.len.toNat →
    ∃ t, exec .bwtInv s = .next t ∧ Succeeded s t s.csr.len.toNat s.csr.len.toNat ∧
      HoldsNats s.hist t.hist (histogram col) ∧ HoldsNats s.first t.first (cumulative (histogram col)) ∧
      HoldsNats s.short t.short (shortcut col) ∧ StoredAt s.obuf t.obuf 0 (inverseBwt col s.csr.primary.toNat) ∧
      (inverseBwt col s.csr.primary.toNat).length = s.csr.len.toNat ∧
      SameOperands s t ∧ SameStream s t ∧ SameMtf s t

/-- MTF.INIT (43_mtf R161): the tables whose flag is 1 become identity, the other keeps its contents. -/
def Obligations.MtfInitSetsIdentity : Prop :=
  ∀ (s : State) (e d : Bool), ∃ t, exec (.mtfInit e d) s = .next t ∧ Succeeded s t 0 0 ∧
    (if e = true then ∀ i : Fin 256, t.tblE[i] = BitVec.ofNat 8 i else t.tblE = s.tblE) ∧
    (if d = true then ∀ i : Fin 256, t.tblD[i] = BitVec.ofNat 8 i else t.tblD = s.tblD) ∧
    t.csr.mtfSym = s.csr.mtfSym ∧ SameOperands s t ∧ SameStream s t ∧ SameLf s t ∧ t.obuf = s.obuf

/-- MTF.ENC (43_mtf R162): when LEN ≤ IBUF_BYTES and LEN ≤ OBUF_BYTES, the distances of the input from the current or the
identity table go to OBUF[0..n) and TBL_E is the table after the last symbol. -/
def Obligations.MtfEncWritesDistances : Prop :=
  ∀ (s : State) (i : Bool) (tbl : MtfTable), s.params.Legal → s.csr.len.toNat ≤ s.params.ibufBytes →
    s.csr.len.toNat ≤ s.params.obufBytes → tbl = (if i = true then State.reset.tblE else s.tblE) →
    ∃ t, exec (.mtfEnc i) s = .next t ∧ Succeeded s t s.csr.len.toNat s.csr.len.toNat ∧
      StoredAt s.obuf t.obuf 0 (mtfBatch mtfEncSym tbl (s.input s.csr.len.toNat)).1 ∧
      (mtfBatch mtfEncSym tbl (s.input s.csr.len.toNat)).1.length = s.csr.len.toNat ∧
      t.tblE = (mtfBatch mtfEncSym tbl (s.input s.csr.len.toNat)).2 ∧ t.tblD = s.tblD ∧
      t.csr.mtfSym = s.csr.mtfSym ∧ SameOperands s t ∧ SameStream s t ∧ SameLf s t

/-- MTF.DEC (43_mtf R163): the same with the bytes of the distances and TBL_D. -/
def Obligations.MtfDecWritesBytes : Prop :=
  ∀ (s : State) (i : Bool) (tbl : MtfTable), s.params.Legal → s.csr.len.toNat ≤ s.params.ibufBytes →
    s.csr.len.toNat ≤ s.params.obufBytes → tbl = (if i = true then State.reset.tblD else s.tblD) →
    ∃ t, exec (.mtfDec i) s = .next t ∧ Succeeded s t s.csr.len.toNat s.csr.len.toNat ∧
      StoredAt s.obuf t.obuf 0 (mtfBatch mtfDecSym tbl (s.input s.csr.len.toNat)).1 ∧
      (mtfBatch mtfDecSym tbl (s.input s.csr.len.toNat)).1.length = s.csr.len.toNat ∧
      t.tblD = (mtfBatch mtfDecSym tbl (s.input s.csr.len.toNat)).2 ∧ t.tblE = s.tblE ∧
      t.csr.mtfSym = s.csr.mtfSym ∧ SameOperands s t ∧ SameStream s t ∧ SameLf s t

/-- MTF.ENC1 and MTF.DEC1 (43_mtf R164, R165): MTF_SYM is the distance of SYM in TBL_E, or the byte at distance SYM of
TBL_D; that table moves and nothing else but the completion registers changes. -/
def Obligations.MtfOneSymbolCommands : Prop :=
  ∀ (s : State) (sym : Byte),
    (s.tblE.toList.Nodup → ∃ t, exec (.mtfEnc1 sym) s = .next t ∧ Succeeded s t 0 0 ∧
      s.tblE[t.csr.mtfSym.toNat]? = some sym ∧
      t.tblE.toList = sym :: s.tblE.toList.erase sym ∧ t.tblD = s.tblD ∧
      SameOperands s t ∧ SameStream s t ∧ SameLf s t ∧ t.obuf = s.obuf) ∧
    (∃ t, exec (.mtfDec1 sym) s = .next t ∧ Succeeded s t 0 0 ∧
      s.tblD[sym.toNat]? = some t.csr.mtfSym ∧
      t.tblD.toList = t.csr.mtfSym :: s.tblD.toList.eraseIdx sym.toNat ∧ t.tblE = s.tblE ∧
      SameOperands s t ∧ SameStream s t ∧ SameLf s t ∧ t.obuf = s.obuf)

/-! ## The errors of the commands -/

/-- LEN_RANGE (60_exceptions R180–R182, R185): each command that reads IBUF ends with it when LEN > IBUF_BYTES, ERRINFO =
LEN, whatever PRIMARY and OBUF_BYTES are; RLE.SPUSH only with an active stream (R183). -/
def Obligations.LenRangeErrors : Prop :=
  ∀ (s : State) (i : Instr), s.params.ibufBytes < s.csr.len.toNat →
    (i ∈ [.rleEnc, .rleDec, .bwtHist, .bwtCsort true, .bwtInv, .mtfEnc false, .mtfEnc true, .mtfDec false, .mtfDec true] ∨
      (i = .rleSpush ∧ s.csr.status.rleActive = true)) →
    ∃ t, exec i s = .next t ∧ FailedPrecisely s t 0x03#8 s.csr.len.toNat

/-- The streaming errors (60_exceptions R180, R181, R183): RLE.SPUSH and RLE.SFIN without a stream end with RLE_NOT_ACTIVE
and the command word, whatever LEN is; RLE.SINIT with RLE_MAX > OBUF_BYTES ends with RLE_MAX_RANGE and RLE_MAX. -/
def Obligations.StreamErrors : Prop :=
  ∀ s : State,
    (s.csr.status.rleActive = false → ∀ i ∈ [Instr.rleSpush, Instr.rleSfin],
      ∃ t, exec i s = .next t ∧ FailedPrecisely s t 0x06#8 s.csr.cmd.toNat) ∧
    (s.params.obufBytes < s.csr.rleMax.toNat →
      ∃ t, exec .rleSinit s = .next t ∧ FailedPrecisely s t 0x07#8 s.csr.rleMax.toNat)

/-- PRIMARY_RANGE (42_bwt_inverse R146, 60_exceptions R180–R183): BWT.INV with LEN ≤ IBUF_BYTES, LEN > 0 and
PRIMARY ≥ LEN ends with it, also where LEN > OBUF_BYTES. -/
def Obligations.PrimaryRangeErrors : Prop :=
  ∀ s : State, s.csr.len.toNat ≤ s.params.ibufBytes → 0 < s.csr.len.toNat →
    s.csr.len.toNat ≤ s.csr.primary.toNat →
    ∃ t, exec .bwtInv s = .next t ∧ FailedPrecisely s t 0x04#8 s.csr.primary.toNat

/-- OUT_OVERFLOW (60_exceptions R180, R181, R185), ERRINFO = min(required length, 2^32 − 1): precise for BWT.CSORT,
BWT.INV, MTF.ENC and MTF.DEC; after RLE.ENC and RLE.DEC every byte of OBUF is unspecified and all else is as at
acceptance. BWT.CSORT with H = 0 does not read LEN (42_bwt_inverse R144); the others have LEN ≤ IBUF_BYTES. -/
def Obligations.OutOverflowErrors : Prop :=
  ∀ s : State,
    (s.csr.len.toNat ≤ s.params.ibufBytes → s.params.obufBytes < s.csr.len.toNat →
      (s.csr.primary.toNat < s.csr.len.toNat →
        ∃ t, exec .bwtInv s = .next t ∧ FailedPrecisely s t 0x05#8 s.csr.len.toNat) ∧
      ∀ i : Bool, (∃ t, exec (.mtfEnc i) s = .next t ∧ FailedPrecisely s t 0x05#8 s.csr.len.toNat) ∧
        (∃ t, exec (.mtfDec i) s = .next t ∧ FailedPrecisely s t 0x05#8 s.csr.len.toNat)) ∧
    (∀ (h : Bool) (n : Nat), (h = true → s.csr.len.toNat ≤ s.params.ibufBytes) →
      n = (if h = true then (histogram (s.input s.csr.len.toNat)).sum else s.histCounts.sum) →
      s.params.obufBytes < n →
      ∃ t, exec (.bwtCsort h) s = .next t ∧ FailedPrecisely s t 0x05#8 (min n 4294967295)) ∧
    (∀ (i : Instr) (n : Nat), s.csr.len.toNat ≤ s.params.ibufBytes →
      ((i = .rleEnc ∧ n = (rleEnc s.params.runCap (s.input s.csr.len.toNat)).length) ∨
        (i = .rleDec ∧ n = (rleDec (s.input s.csr.len.toNat)).length)) → s.params.obufBytes < n →
      ∃ t, exec i s = .next t ∧ Failed t 0x05#8 (min n 4294967295) ∧ SameOperands s t ∧ SameStream s t ∧
        SameMtf s t ∧ SameLf s t ∧ ∀ a, t.obuf.read? a = none)

/-! ## RLE-1 -/

/-- Run-units (41_rle R120): cost(r) is the length of encode_run(b, r), which is min(r, 4) copies of b and, for r ≥ 4,
a byte that holds r − 4 without loss. -/
def Obligations.RunUnitShape : Prop :=
  ∀ (b : Byte) (r : Nat), r ≤ 259 →
    (encodeRun b r).length = runCost r ∧ runCost r = (if r = 0 then 0 else if r ≤ 3 then r else 5) ∧
    (encodeRun b r).take (min r 4) = List.replicate (min r 4) b ∧
    (r < 4 → encodeRun b r = List.replicate r b) ∧
    (4 ≤ r → ∃ c : Byte, (encodeRun b r)[4]? = some c ∧ c.toNat = r - 4)

/-- `run_len(d, i)` is the largest r with 1 ≤ r ≤ RLE_RUN_CAP, i + r ≤ n and d[i + j] = d[i] for every j < r
(41_rle R121). -/
def Obligations.RunLenIsTheLargestRun : Prop :=
  ∀ (cap : Nat) (d : List Byte) (i r : Nat), 4 ≤ cap → cap ≤ 259 → i < d.length →
    r = runLen cap (d.drop i) →
    (1 ≤ r ∧ r ≤ cap ∧ i + r ≤ d.length ∧ ∀ j, j < r → d[i + j]? = d[i]?) ∧
    ∀ r', 1 ≤ r' → r' ≤ cap → i + r' ≤ d.length → (∀ j, j < r' → d[i + j]? = d[i]?) → r' ≤ r

/-- One-shot encode (41_rle R122), round by round: encode the run at the front, advance past it, until nothing is left. -/
def Obligations.RleEncodeRounds : Prop :=
  ∀ cap : Nat, 4 ≤ cap → cap ≤ 259 →
    rleEnc cap [] = [] ∧
    ∀ (b : Byte) (bs : List Byte), rleEnc cap (b :: bs) =
      encodeRun b (runLen cap (b :: bs)) ++ rleEnc cap ((b :: bs).drop (runLen cap (b :: bs)))

/-- Decode (41_rle R123), round by round: a whole window of equal bytes and a byte c after it are 4 + c copies, 5 bytes
consumed; otherwise the longest equal prefix of the window is literal; fewer than 4 bytes are copied. -/
def Obligations.RleDecodeRounds : Prop :=
  (∀ e : List Byte, e.length < 4 → rleDec e = e) ∧
  (∀ (b c : Byte) (rest : List Byte),
    rleDec (b :: b :: b :: b :: c :: rest) = List.replicate (4 + c.toNat) b ++ rleDec rest) ∧
  (∀ b : Byte, rleDec [b, b, b, b] = [b, b, b, b]) ∧
  (∀ (b b1 b2 b3 : Byte) (rest : List Byte), b1 ≠ b →
    rleDec (b :: b1 :: b2 :: b3 :: rest) = b :: rleDec (b1 :: b2 :: b3 :: rest)) ∧
  (∀ (b b2 b3 : Byte) (rest : List Byte), b2 ≠ b →
    rleDec (b :: b :: b2 :: b3 :: rest) = b :: b :: rleDec (b2 :: b3 :: rest)) ∧
  (∀ (b b3 : Byte) (rest : List Byte), b3 ≠ b →
    rleDec (b :: b :: b :: b3 :: rest) = b :: b :: b :: rleDec (b3 :: rest))

/-- RLE-1 round trip (41_rle R124), for every byte sequence and every RLE_RUN_CAP in 4..259. -/
def Obligations.RleRoundTrip : Prop :=
  ∀ (cap : Nat) (x : List Byte), 4 ≤ cap → cap ≤ 259 → rleDec (rleEnc cap x) = x

/-- The size bounds of 41_rle R126. -/
def Obligations.RleSizeBounds : Prop :=
  (∀ (cap : Nat) (d : List Byte), 4 ≤ cap → cap ≤ 259 → (rleEnc cap d).length ≤ 5 * d.length / 4) ∧
  (∀ e : List Byte, (rleDec e).length ≤ 259 * (e.length / 5) + e.length % 5)

/-- Stream equals one-shot (41_rle R131): for X the consumed input since the last RLE.SINIT,
OBUF[0..sout) ∥ encode_run(pb, pc) = rle_enc(X) and sout + cost(pc) ≤ max at every point, so after RLE.SFIN
OBUF[0..RLE_SOUT) = rle_enc(X) and its decoding is X. -/
def Obligations.StreamEqualsOneShot : Prop :=
  ∀ (s : State) (x : List Byte), StreamRun s x →
    (List.range s.csr.rleSout.toNat).map s.obuf.read? ++
        (encodeRun s.csr.pendingByte s.csr.pendingCount.toNat).map some = (rleEnc s.params.runCap x).map some ∧
    s.csr.rleSout.toNat + runCost s.csr.pendingCount.toNat ≤ s.csr.rleCaplim.toNat ∧
    ∃ t, exec .rleSfin s = .next t ∧ t.csr.status.err = false ∧
      (List.range t.csr.rleSout.toNat).map t.obuf.read? = (rleEnc s.params.runCap x).map some ∧
      rleDec (rleEnc s.params.runCap x) = x

/-! ## Histogram, counting sort and inverse BWT -/

/-- The histogram and its cumulative form (42_bwt_inverse R140, R141): 256 counts that sum to |d|, and
cum(h)[b] = Σ_{c<b} h[c]. -/
def Obligations.HistogramAndCumulative : Prop :=
  ∀ d : List Byte,
    (histogram d).length = 256 ∧ (histogram d).sum = d.length ∧
    (∀ b : Byte, (histogram d)[b.toNat]? = some (d.count b)) ∧
    (∀ b, b < 256 → (cumulative (histogram d))[b]? = some (((histogram d).take b).sum))

/-- The shortcut (42_bwt_inverse R142): the number of earlier occurrences of each position's byte, below its count. -/
def Obligations.ShortcutCountsEarlierOccurrences : Prop :=
  ∀ (col : List Byte) (i : Nat) (b : Byte), col[i]? = some b →
    (shortcut col)[i]? = some ((col.take i).count b) ∧ (col.take i).count b + 1 ≤ col.count b

/-- BWT.CSORT with H = 1 and no error leaves in OBUF[0..n) the input sorted in non-decreasing byte order
(42_bwt_inverse R145). -/
def Obligations.CsortSortsTheInput : Prop :=
  ∀ s : State, s.params.Legal → s.csr.len.toNat ≤ s.params.ibufBytes → s.csr.len.toNat ≤ s.params.obufBytes →
    ∃ (t : State) (out : List Byte), exec (.bwtCsort true) s = .next t ∧ t.csr.status.err = false ∧
      out.Perm (s.input s.csr.len.toNat) ∧ out.Pairwise (fun a b => a.toNat ≤ b.toNat) ∧
      ∀ i, i < s.csr.len.toNat → t.obuf.read? i = out[i]?

/-- The walk never leaves the column (42_bwt_inverse R148): from any row of any byte sequence the LF step leads to a row,
and FIRST[c] + SHORT[idx] is below cum(HIST)[c] + HIST[c]. -/
def Obligations.WalkStaysInTheColumn : Prop :=
  ∀ (col : List Byte) (idx : Nat) (c : Byte), col[idx]? = some c →
    lfStep col (cumulative (histogram col)) (shortcut col) idx < col.length ∧
    lfStep col (cumulative (histogram col)) (shortcut col) idx + 1 ≤
      ((histogram col).take c.toNat).sum + col.count c

/-- Correctness of BWT.INV (42_bwt_inverse R149, 00_scope R9): for every block x that fits and every pair (L, p) of the
reference transform of x, with the ties in any order, BWT.INV completes without error and leaves OBUF[0..n) = x. -/
def Obligations.InverseBwtRestoresTheBlock : Prop :=
  ∀ (s : State) (x col : List Byte), IsBwt x col s.csr.primary.toNat → s.params.Legal →
    s.csr.len.toNat = x.length → x.length ≤ s.params.ibufBytes → x.length ≤ s.params.obufBytes →
    s.input s.csr.len.toNat = col →
    ∃ t, exec .bwtInv s = .next t ∧ t.csr.status.err = false ∧ t.csr.outLen.toNat = x.length ∧
      ∀ i, i < x.length → t.obuf.read? i = x[i]?

/-! ## Move-To-Front -/

/-- The per-symbol steps (43_mtf R160, R166): entries [0, j) move to [1, j], the symbol goes to the front, entries above j
stay; the encoder's j is the one place of its byte; a permutation stays one. -/
def Obligations.MtfStepsMoveToFront : Prop :=
  ∀ (tbl : MtfTable) (b j : Byte), tbl.toList.Nodup →
    tbl[(mtfEncSym tbl b).1.toNat]? = some b ∧ (mtfEncSym tbl b).2 = (mtfDecSym tbl (mtfEncSym tbl b).1).2 ∧
    tbl[j.toNat]? = some (mtfDecSym tbl j).1 ∧
    (mtfDecSym tbl j).2[0]? = some (mtfDecSym tbl j).1 ∧
    (∀ q, 1 ≤ q → q ≤ j.toNat → (mtfDecSym tbl j).2[q]? = tbl[q - 1]?) ∧
    (∀ q, j.toNat < q → (mtfDecSym tbl j).2[q]? = tbl[q]?) ∧
    (mtfEncSym tbl b).2.toList.Nodup ∧ (mtfDecSym tbl j).2.toList.Nodup

/-- MTF round trip (43_mtf R167): from one permutation, decoding the distances of x gives x, and both tables end alike. In
particular MTF.ENC with I = 1, then MTF.DEC with I = 1 of its output, leaves the bytes of the first input in OBUF. -/
def Obligations.MtfRoundTrip : Prop :=
  (∀ (tbl : MtfTable) (x : List Byte), tbl.toList.Nodup →
    mtfBatch mtfDecSym tbl (mtfBatch mtfEncSym tbl x).1 = (x, (mtfBatch mtfEncSym tbl x).2)) ∧
  ∀ s t u : State, s.params.Legal → s.csr.len.toNat ≤ s.params.ibufBytes → s.csr.len.toNat ≤ s.params.obufBytes →
    exec (.mtfEnc true) s = .next t → u.params = s.params → u.csr.len = s.csr.len →
    (∀ i, i < s.csr.len.toNat → u.ibuf.read? i = t.obuf.read? i) →
    ∃ v, exec (.mtfDec true) u = .next v ∧ v.csr.status.err = false ∧
      ∀ i, i < s.csr.len.toNat → v.obuf.read? i = (s.input s.csr.len.toNat)[i]?

/-! ## The invariant of the machine -/

/-- The state after power-on reset is legal (00_scope R4, 70_reset R210). The parameters are opaque constants in the
ranges of R4 (log entry 1). -/
def Obligations.PowerOnStateIsLegal : Prop := State.reset.Inv

/-- Every step of the machine, of either agent, keeps a legal state legal: parameters in range, stores canonical and
within their sizes, both MTF tables permutations (10_state R47), sout + cost(pc) ≤ max ≤ OBUF_BYTES for an active
stream (41_rle R129), the completion registers in agreement with STATUS. The canonical form of the stores is the
model's (log entry 2). -/
def Obligations.EveryStepKeepsTheStateLegal : Prop :=
  ∀ s t : State, s.Inv → step s = .next t → t.Inv
end

