-- ==== Sys2Proof/Laws/Memory.lean ====
section
/-! SUPPORT. The laws of the stores: a read after a write, at the written indices and elsewhere, and the canonical
form, which every memory operation keeps. -/

namespace Sys2Proof.Machine

open Sys2Proof

@[simp] theorem Memory.read?_nil {w : Nat} (a : Nat) : Memory.read? ([] : Memory w) a = none := rfl

@[simp] theorem Memory.read?_cons {w : Nat} (k : Nat) (v : BitVec w) (m : Memory w) (a : Nat) :
    Memory.read? ((k, v) :: m) a = if k = a then some v else Memory.read? m a := rfl

theorem Memory.read?_append {w : Nat} (m n : Memory w) (a : Nat) :
    Memory.read? (m ++ n : Memory w) a = (Memory.read? m a).or (Memory.read? n a) := by
  induction m with
  | nil => simp
  | cons c m ih =>
    obtain ⟨k, v⟩ := c
    simp only [List.cons_append, Memory.read?_cons, ih]
    split <;> simp

theorem Memory.read?_filter {w : Nat} (p : Nat → Bool) (m : Memory w) (a : Nat) :
    Memory.read? (m.filter fun c => p c.1) a = if p a then Memory.read? m a else none := by
  induction m with
  | nil => simp
  | cons c m ih =>
    obtain ⟨k, v⟩ := c
    by_cases hk : k = a
    · subst hk
      by_cases hp : p k <;> simp [hp, ih]
    · by_cases hp : p k <;> simp [hp, ih, hk]

theorem Memory.read?_cells {w : Nat} (a : Nat) (vs : List (BitVec w)) (i : Nat) :
    Memory.read? (Memory.cells a vs) i = if a ≤ i then vs[i - a]? else none := by
  induction vs generalizing a with
  | nil => simp [Memory.cells]
  | cons v vs ih =>
    simp only [Memory.cells, Memory.read?_cons, ih]
    by_cases h : a = i
    · subst h; simp
    · by_cases h2 : a + 1 ≤ i
      · have : i - a = (i - (a + 1)) + 1 := by omega
        simp [h, h2, this, show a ≤ i by omega]
      · simp [h, h2, show ¬ a ≤ i by omega]

/-- A read after a write: the value written at the written indices, what was there elsewhere. -/
theorem Memory.read?_write {w : Nat} (m : Memory w) (a : Nat) (vs : List (BitVec w)) (i : Nat) :
    (m.write a vs).read? i = if a ≤ i ∧ i < a + vs.length then vs[i - a]? else m.read? i := by
  unfold Memory.write
  rw [Memory.read?_append, Memory.read?_append, Memory.read?_filter (fun k => decide (k < a)),
    Memory.read?_filter (fun k => decide (a + vs.length ≤ k)), Memory.read?_cells]
  rcases Nat.lt_or_ge i a with h | h
  · simp [h, show ¬ a ≤ i by omega, show ¬ a + vs.length ≤ i by omega]
  · rcases Nat.lt_or_ge i (a + vs.length) with h2 | h2
    · have hl : i - a < vs.length := by omega
      simp [h, h2, show ¬ i < a by omega, List.getElem?_eq_getElem hl]
    · have : vs[i - a]? = none := List.getElem?_eq_none (by omega)
      simp [h, h2, show ¬ i < a by omega, this, show ¬ i < a + vs.length by omega]

theorem Memory.wfFrom_mono {w lo lo' size : Nat} {m : Memory w} (h : m.wfFrom lo size = true) (hl : lo' ≤ lo) :
    m.wfFrom lo' size = true := by
  cases m with
  | nil => rfl
  | cons c m =>
    obtain ⟨k, v⟩ := c
    simp only [Memory.wfFrom, Bool.and_eq_true, decide_eq_true_eq] at h ⊢
    exact ⟨⟨by omega, h.1.2⟩, h.2⟩

theorem Memory.wfFrom_filter_lt {w lo a size : Nat} {m n : Memory w} (h : m.wfFrom lo size = true)
    (hn : n.wfFrom (max lo a) size = true) :
    Memory.wfFrom lo size (m.filter (fun c => decide (c.1 < a)) ++ n : Memory w) = true := by
  induction m generalizing lo with
  | nil => exact Memory.wfFrom_mono hn (by omega)
  | cons c m ih =>
    obtain ⟨k, v⟩ := c
    simp only [Memory.wfFrom, Bool.and_eq_true, decide_eq_true_eq] at h
    by_cases hk : k < a
    · simp only [List.filter_cons, hk, decide_true, if_true, List.cons_append, Memory.wfFrom, Bool.and_eq_true,
        decide_eq_true_eq]
      exact ⟨h.1, ih h.2 (Memory.wfFrom_mono hn (by omega))⟩
    · simp only [List.filter_cons, hk, decide_false]
      exact ih (Memory.wfFrom_mono h.2 (by omega)) hn

theorem Memory.wfFrom_cells {w a size : Nat} {vs : List (BitVec w)} {n : Memory w} (hs : a + vs.length ≤ size)
    (hn : n.wfFrom (a + vs.length) size = true) :
    Memory.wfFrom a size (Memory.cells a vs ++ n : Memory w) = true := by
  induction vs generalizing a with
  | nil => simpa [Memory.cells] using hn
  | cons v vs ih =>
    simp only [List.length_cons] at hs hn
    have := ih (a := a + 1) (by omega) (by simpa [Nat.add_assoc, Nat.add_comm 1] using hn)
    simp only [Memory.cells, List.cons_append, Memory.wfFrom, Bool.and_eq_true, decide_eq_true_eq]
    exact ⟨⟨by omega, by omega⟩, this⟩

theorem Memory.wfFrom_filter_ge {w lo a size : Nat} {m : Memory w} (h : m.wfFrom lo size = true) :
    Memory.wfFrom (max lo a) size (m.filter (fun c => decide (a ≤ c.1))) = true := by
  induction m generalizing lo with
  | nil => rfl
  | cons c m ih =>
    obtain ⟨k, v⟩ := c
    simp only [Memory.wfFrom, Bool.and_eq_true, decide_eq_true_eq] at h
    by_cases hk : a ≤ k
    · simp only [List.filter_cons, hk, decide_true, if_true, Memory.wfFrom, Bool.and_eq_true, decide_eq_true_eq]
      exact ⟨⟨by omega, h.1.2⟩, Memory.wfFrom_mono (ih h.2) (by omega)⟩
    · simp only [List.filter_cons, hk, decide_false]
      exact Memory.wfFrom_mono (ih h.2) (by omega)

/-- A write inside the store keeps the canonical form. -/
theorem Memory.wf_write {w size a : Nat} {m : Memory w} {vs : List (BitVec w)} (h : m.wf size = true)
    (hs : a + vs.length ≤ size) : (m.write a vs).wf size = true := by
  unfold Memory.write Memory.wf
  rw [List.append_assoc]
  have h3 := Memory.wfFrom_filter_ge (a := a + vs.length) h
  refine Memory.wfFrom_filter_lt h (Memory.wfFrom_mono (Memory.wfFrom_cells hs ?_) (by omega))
  exact Memory.wfFrom_mono h3 (by omega)

/-- Forgetting a whole store keeps the canonical form. -/
@[simp] theorem Memory.wf_nil {w : Nat} (size : Nat) : Memory.wf size ([] : Memory w) = true := rfl

/-- Writing nothing changes no read. -/
theorem Memory.read?_write_nil {w : Nat} (m : Memory w) (a i : Nat) : (m.write a []).read? i = m.read? i := by
  rw [Memory.read?_write]
  simp only [List.length_nil, Nat.add_zero]
  rw [if_neg (by omega)]

end Sys2Proof.Machine
end

