-- ==== Sys2Proof/Laws/State.lean ====
section
/-! SUPPORT. One lemma per field per update of State, so that no proof unfolds a record update. -/

namespace Sys2Proof.Machine

open Sys2Proof

@[simp] theorem State.complete_params (s : State) (o c : Nat) : (s.complete o c).params = s.params := rfl
@[simp] theorem State.complete_csr_status (s : State) (o c : Nat) : (s.complete o c).csr.status = s.csr.status.completed false := rfl
@[simp] theorem State.complete_csr_cmd (s : State) (o c : Nat) : (s.complete o c).csr.cmd = s.csr.cmd := rfl
@[simp] theorem State.complete_csr_len (s : State) (o c : Nat) : (s.complete o c).csr.len = s.csr.len := rfl
@[simp] theorem State.complete_csr_primary (s : State) (o c : Nat) : (s.complete o c).csr.primary = s.csr.primary := rfl
@[simp] theorem State.complete_csr_outLen (s : State) (o c : Nat) : (s.complete o c).csr.outLen = BitVec.ofNat 32 o := rfl
@[simp] theorem State.complete_csr_consumed (s : State) (o c : Nat) : (s.complete o c).csr.consumed = BitVec.ofNat 32 c := rfl
@[simp] theorem State.complete_csr_errcode (s : State) (o c : Nat) : (s.complete o c).csr.errcode = 0x00#8 := rfl
@[simp] theorem State.complete_csr_errinfo (s : State) (o c : Nat) : (s.complete o c).csr.errinfo = 0#32 := rfl
@[simp] theorem State.complete_csr_rleMax (s : State) (o c : Nat) : (s.complete o c).csr.rleMax = s.csr.rleMax := rfl
@[simp] theorem State.complete_csr_pendingByte (s : State) (o c : Nat) : (s.complete o c).csr.pendingByte = s.csr.pendingByte := rfl
@[simp] theorem State.complete_csr_pendingCount (s : State) (o c : Nat) : (s.complete o c).csr.pendingCount = s.csr.pendingCount := rfl
@[simp] theorem State.complete_csr_rleSout (s : State) (o c : Nat) : (s.complete o c).csr.rleSout = s.csr.rleSout := rfl
@[simp] theorem State.complete_csr_rleCaplim (s : State) (o c : Nat) : (s.complete o c).csr.rleCaplim = s.csr.rleCaplim := rfl
@[simp] theorem State.complete_csr_mtfSym (s : State) (o c : Nat) : (s.complete o c).csr.mtfSym = s.csr.mtfSym := rfl
@[simp] theorem State.complete_csr_irqEn (s : State) (o c : Nat) : (s.complete o c).csr.irqEn = s.csr.irqEn := rfl
@[simp] theorem State.complete_csr_irqStatus (s : State) (o c : Nat) : (s.complete o c).csr.irqStatus = s.csr.irqStatus.raised false := rfl
@[simp] theorem State.complete_hist (s : State) (o c : Nat) : (s.complete o c).hist = s.hist := rfl
@[simp] theorem State.complete_first (s : State) (o c : Nat) : (s.complete o c).first = s.first := rfl
@[simp] theorem State.complete_tblE (s : State) (o c : Nat) : (s.complete o c).tblE = s.tblE := rfl
@[simp] theorem State.complete_tblD (s : State) (o c : Nat) : (s.complete o c).tblD = s.tblD := rfl
@[simp] theorem State.complete_ibuf (s : State) (o c : Nat) : (s.complete o c).ibuf = s.ibuf := rfl
@[simp] theorem State.complete_obuf (s : State) (o c : Nat) : (s.complete o c).obuf = s.obuf := rfl
@[simp] theorem State.complete_short (s : State) (o c : Nat) : (s.complete o c).short = s.short := rfl
@[simp] theorem State.complete_host (s : State) (o c : Nat) : (s.complete o c).host = s.host := rfl
@[simp] theorem State.complete_delay (s : State) (o c : Nat) : (s.complete o c).delay = s.delay := rfl
@[simp] theorem State.complete_epoch (s : State) (o c : Nat) : (s.complete o c).epoch = s.epoch + 1 := rfl

@[simp] theorem State.errorCompletion_params (s : State) (e : ErrCode) (v : Word) : (s.errorCompletion e v).params = s.params := rfl
@[simp] theorem State.errorCompletion_csr_status (s : State) (e : ErrCode) (v : Word) : (s.errorCompletion e v).csr.status = s.csr.status.completed true := rfl
@[simp] theorem State.errorCompletion_csr_cmd (s : State) (e : ErrCode) (v : Word) : (s.errorCompletion e v).csr.cmd = s.csr.cmd := rfl
@[simp] theorem State.errorCompletion_csr_len (s : State) (e : ErrCode) (v : Word) : (s.errorCompletion e v).csr.len = s.csr.len := rfl
@[simp] theorem State.errorCompletion_csr_primary (s : State) (e : ErrCode) (v : Word) : (s.errorCompletion e v).csr.primary = s.csr.primary := rfl
@[simp] theorem State.errorCompletion_csr_outLen (s : State) (e : ErrCode) (v : Word) : (s.errorCompletion e v).csr.outLen = 0#32 := rfl
@[simp] theorem State.errorCompletion_csr_consumed (s : State) (e : ErrCode) (v : Word) : (s.errorCompletion e v).csr.consumed = 0#32 := rfl
@[simp] theorem State.errorCompletion_csr_errcode (s : State) (e : ErrCode) (v : Word) : (s.errorCompletion e v).csr.errcode = e.toByte := rfl
@[simp] theorem State.errorCompletion_csr_errinfo (s : State) (e : ErrCode) (v : Word) : (s.errorCompletion e v).csr.errinfo = v := rfl
@[simp] theorem State.errorCompletion_csr_rleMax (s : State) (e : ErrCode) (v : Word) : (s.errorCompletion e v).csr.rleMax = s.csr.rleMax := rfl
@[simp] theorem State.errorCompletion_csr_pendingByte (s : State) (e : ErrCode) (v : Word) : (s.errorCompletion e v).csr.pendingByte = s.csr.pendingByte := rfl
@[simp] theorem State.errorCompletion_csr_pendingCount (s : State) (e : ErrCode) (v : Word) : (s.errorCompletion e v).csr.pendingCount = s.csr.pendingCount := rfl
@[simp] theorem State.errorCompletion_csr_rleSout (s : State) (e : ErrCode) (v : Word) : (s.errorCompletion e v).csr.rleSout = s.csr.rleSout := rfl
@[simp] theorem State.errorCompletion_csr_rleCaplim (s : State) (e : ErrCode) (v : Word) : (s.errorCompletion e v).csr.rleCaplim = s.csr.rleCaplim := rfl
@[simp] theorem State.errorCompletion_csr_mtfSym (s : State) (e : ErrCode) (v : Word) : (s.errorCompletion e v).csr.mtfSym = s.csr.mtfSym := rfl
@[simp] theorem State.errorCompletion_csr_irqEn (s : State) (e : ErrCode) (v : Word) : (s.errorCompletion e v).csr.irqEn = s.csr.irqEn := rfl
@[simp] theorem State.errorCompletion_csr_irqStatus (s : State) (e : ErrCode) (v : Word) : (s.errorCompletion e v).csr.irqStatus = s.csr.irqStatus.raised true := rfl
@[simp] theorem State.errorCompletion_hist (s : State) (e : ErrCode) (v : Word) : (s.errorCompletion e v).hist = s.hist := rfl
@[simp] theorem State.errorCompletion_first (s : State) (e : ErrCode) (v : Word) : (s.errorCompletion e v).first = s.first := rfl
@[simp] theorem State.errorCompletion_tblE (s : State) (e : ErrCode) (v : Word) : (s.errorCompletion e v).tblE = s.tblE := rfl
@[simp] theorem State.errorCompletion_tblD (s : State) (e : ErrCode) (v : Word) : (s.errorCompletion e v).tblD = s.tblD := rfl
@[simp] theorem State.errorCompletion_ibuf (s : State) (e : ErrCode) (v : Word) : (s.errorCompletion e v).ibuf = s.ibuf := rfl
@[simp] theorem State.errorCompletion_obuf (s : State) (e : ErrCode) (v : Word) : (s.errorCompletion e v).obuf = s.obuf := rfl
@[simp] theorem State.errorCompletion_short (s : State) (e : ErrCode) (v : Word) : (s.errorCompletion e v).short = s.short := rfl
@[simp] theorem State.errorCompletion_host (s : State) (e : ErrCode) (v : Word) : (s.errorCompletion e v).host = s.host := rfl
@[simp] theorem State.errorCompletion_delay (s : State) (e : ErrCode) (v : Word) : (s.errorCompletion e v).delay = s.delay := rfl
@[simp] theorem State.errorCompletion_epoch (s : State) (e : ErrCode) (v : Word) : (s.errorCompletion e v).epoch = s.epoch + 1 := rfl

@[simp] theorem State.accept_params (s : State) (w : Word) : (s.accept w).params = s.params := rfl
@[simp] theorem State.accept_csr_status (s : State) (w : Word) : (s.accept w).csr.status = s.csr.status.accepted := rfl
@[simp] theorem State.accept_csr_cmd (s : State) (w : Word) : (s.accept w).csr.cmd = w := rfl
@[simp] theorem State.accept_csr_len (s : State) (w : Word) : (s.accept w).csr.len = s.csr.len := rfl
@[simp] theorem State.accept_csr_primary (s : State) (w : Word) : (s.accept w).csr.primary = s.csr.primary := rfl
@[simp] theorem State.accept_csr_outLen (s : State) (w : Word) : (s.accept w).csr.outLen = s.csr.outLen := rfl
@[simp] theorem State.accept_csr_consumed (s : State) (w : Word) : (s.accept w).csr.consumed = s.csr.consumed := rfl
@[simp] theorem State.accept_csr_errcode (s : State) (w : Word) : (s.accept w).csr.errcode = s.csr.errcode := rfl
@[simp] theorem State.accept_csr_errinfo (s : State) (w : Word) : (s.accept w).csr.errinfo = s.csr.errinfo := rfl
@[simp] theorem State.accept_csr_rleMax (s : State) (w : Word) : (s.accept w).csr.rleMax = s.csr.rleMax := rfl
@[simp] theorem State.accept_csr_pendingByte (s : State) (w : Word) : (s.accept w).csr.pendingByte = s.csr.pendingByte := rfl
@[simp] theorem State.accept_csr_pendingCount (s : State) (w : Word) : (s.accept w).csr.pendingCount = s.csr.pendingCount := rfl
@[simp] theorem State.accept_csr_rleSout (s : State) (w : Word) : (s.accept w).csr.rleSout = s.csr.rleSout := rfl
@[simp] theorem State.accept_csr_rleCaplim (s : State) (w : Word) : (s.accept w).csr.rleCaplim = s.csr.rleCaplim := rfl
@[simp] theorem State.accept_csr_mtfSym (s : State) (w : Word) : (s.accept w).csr.mtfSym = s.csr.mtfSym := rfl
@[simp] theorem State.accept_csr_irqEn (s : State) (w : Word) : (s.accept w).csr.irqEn = s.csr.irqEn := rfl
@[simp] theorem State.accept_csr_irqStatus (s : State) (w : Word) : (s.accept w).csr.irqStatus = s.csr.irqStatus := rfl
@[simp] theorem State.accept_hist (s : State) (w : Word) : (s.accept w).hist = s.hist := rfl
@[simp] theorem State.accept_first (s : State) (w : Word) : (s.accept w).first = s.first := rfl
@[simp] theorem State.accept_tblE (s : State) (w : Word) : (s.accept w).tblE = s.tblE := rfl
@[simp] theorem State.accept_tblD (s : State) (w : Word) : (s.accept w).tblD = s.tblD := rfl
@[simp] theorem State.accept_ibuf (s : State) (w : Word) : (s.accept w).ibuf = s.ibuf := rfl
@[simp] theorem State.accept_obuf (s : State) (w : Word) : (s.accept w).obuf = s.obuf := rfl
@[simp] theorem State.accept_short (s : State) (w : Word) : (s.accept w).short = s.short := rfl
@[simp] theorem State.accept_host (s : State) (w : Word) : (s.accept w).host = s.host := rfl
@[simp] theorem State.accept_delay (s : State) (w : Word) : (s.accept w).delay = Config.latency s.epoch := rfl
@[simp] theorem State.accept_epoch (s : State) (w : Word) : (s.accept w).epoch = s.epoch := rfl

@[simp] theorem State.acceptNow_params (s : State) (w : Word) : (s.acceptNow w).params = s.params := rfl
@[simp] theorem State.acceptNow_csr_status (s : State) (w : Word) : (s.acceptNow w).csr.status = s.csr.status.accepted := rfl
@[simp] theorem State.acceptNow_csr_cmd (s : State) (w : Word) : (s.acceptNow w).csr.cmd = w := rfl
@[simp] theorem State.acceptNow_csr_len (s : State) (w : Word) : (s.acceptNow w).csr.len = s.csr.len := rfl
@[simp] theorem State.acceptNow_csr_primary (s : State) (w : Word) : (s.acceptNow w).csr.primary = s.csr.primary := rfl
@[simp] theorem State.acceptNow_csr_outLen (s : State) (w : Word) : (s.acceptNow w).csr.outLen = s.csr.outLen := rfl
@[simp] theorem State.acceptNow_csr_consumed (s : State) (w : Word) : (s.acceptNow w).csr.consumed = s.csr.consumed := rfl
@[simp] theorem State.acceptNow_csr_errcode (s : State) (w : Word) : (s.acceptNow w).csr.errcode = s.csr.errcode := rfl
@[simp] theorem State.acceptNow_csr_errinfo (s : State) (w : Word) : (s.acceptNow w).csr.errinfo = s.csr.errinfo := rfl
@[simp] theorem State.acceptNow_csr_rleMax (s : State) (w : Word) : (s.acceptNow w).csr.rleMax = s.csr.rleMax := rfl
@[simp] theorem State.acceptNow_csr_pendingByte (s : State) (w : Word) : (s.acceptNow w).csr.pendingByte = s.csr.pendingByte := rfl
@[simp] theorem State.acceptNow_csr_pendingCount (s : State) (w : Word) : (s.acceptNow w).csr.pendingCount = s.csr.pendingCount := rfl
@[simp] theorem State.acceptNow_csr_rleSout (s : State) (w : Word) : (s.acceptNow w).csr.rleSout = s.csr.rleSout := rfl
@[simp] theorem State.acceptNow_csr_rleCaplim (s : State) (w : Word) : (s.acceptNow w).csr.rleCaplim = s.csr.rleCaplim := rfl
@[simp] theorem State.acceptNow_csr_mtfSym (s : State) (w : Word) : (s.acceptNow w).csr.mtfSym = s.csr.mtfSym := rfl
@[simp] theorem State.acceptNow_csr_irqEn (s : State) (w : Word) : (s.acceptNow w).csr.irqEn = s.csr.irqEn := rfl
@[simp] theorem State.acceptNow_csr_irqStatus (s : State) (w : Word) : (s.acceptNow w).csr.irqStatus = s.csr.irqStatus := rfl
@[simp] theorem State.acceptNow_hist (s : State) (w : Word) : (s.acceptNow w).hist = s.hist := rfl
@[simp] theorem State.acceptNow_first (s : State) (w : Word) : (s.acceptNow w).first = s.first := rfl
@[simp] theorem State.acceptNow_tblE (s : State) (w : Word) : (s.acceptNow w).tblE = s.tblE := rfl
@[simp] theorem State.acceptNow_tblD (s : State) (w : Word) : (s.acceptNow w).tblD = s.tblD := rfl
@[simp] theorem State.acceptNow_ibuf (s : State) (w : Word) : (s.acceptNow w).ibuf = s.ibuf := rfl
@[simp] theorem State.acceptNow_obuf (s : State) (w : Word) : (s.acceptNow w).obuf = s.obuf := rfl
@[simp] theorem State.acceptNow_short (s : State) (w : Word) : (s.acceptNow w).short = s.short := rfl
@[simp] theorem State.acceptNow_host (s : State) (w : Word) : (s.acceptNow w).host = s.host := rfl
@[simp] theorem State.acceptNow_delay (s : State) (w : Word) : (s.acceptNow w).delay = 0 := rfl
@[simp] theorem State.acceptNow_epoch (s : State) (w : Word) : (s.acceptNow w).epoch = s.epoch := rfl

@[simp] theorem State.writeObuf_params (s : State) (a : Nat) (bs : List Byte) : (s.writeObuf a bs).params = s.params := rfl
@[simp] theorem State.writeObuf_csr (s : State) (a : Nat) (bs : List Byte) : (s.writeObuf a bs).csr = s.csr := rfl
@[simp] theorem State.writeObuf_hist (s : State) (a : Nat) (bs : List Byte) : (s.writeObuf a bs).hist = s.hist := rfl
@[simp] theorem State.writeObuf_first (s : State) (a : Nat) (bs : List Byte) : (s.writeObuf a bs).first = s.first := rfl
@[simp] theorem State.writeObuf_tblE (s : State) (a : Nat) (bs : List Byte) : (s.writeObuf a bs).tblE = s.tblE := rfl
@[simp] theorem State.writeObuf_tblD (s : State) (a : Nat) (bs : List Byte) : (s.writeObuf a bs).tblD = s.tblD := rfl
@[simp] theorem State.writeObuf_ibuf (s : State) (a : Nat) (bs : List Byte) : (s.writeObuf a bs).ibuf = s.ibuf := rfl
@[simp] theorem State.writeObuf_obuf (s : State) (a : Nat) (bs : List Byte) : (s.writeObuf a bs).obuf = s.obuf.write a bs := rfl
@[simp] theorem State.writeObuf_short (s : State) (a : Nat) (bs : List Byte) : (s.writeObuf a bs).short = s.short := rfl
@[simp] theorem State.writeObuf_host (s : State) (a : Nat) (bs : List Byte) : (s.writeObuf a bs).host = s.host := rfl
@[simp] theorem State.writeObuf_delay (s : State) (a : Nat) (bs : List Byte) : (s.writeObuf a bs).delay = s.delay := rfl
@[simp] theorem State.writeObuf_epoch (s : State) (a : Nat) (bs : List Byte) : (s.writeObuf a bs).epoch = s.epoch := rfl

@[simp] theorem State.forgetObuf_params (s : State) : s.forgetObuf.params = s.params := rfl
@[simp] theorem State.forgetObuf_csr (s : State) : s.forgetObuf.csr = s.csr := rfl
@[simp] theorem State.forgetObuf_hist (s : State) : s.forgetObuf.hist = s.hist := rfl
@[simp] theorem State.forgetObuf_first (s : State) : s.forgetObuf.first = s.first := rfl
@[simp] theorem State.forgetObuf_tblE (s : State) : s.forgetObuf.tblE = s.tblE := rfl
@[simp] theorem State.forgetObuf_tblD (s : State) : s.forgetObuf.tblD = s.tblD := rfl
@[simp] theorem State.forgetObuf_ibuf (s : State) : s.forgetObuf.ibuf = s.ibuf := rfl
@[simp] theorem State.forgetObuf_obuf (s : State) : s.forgetObuf.obuf = [] := rfl
@[simp] theorem State.forgetObuf_short (s : State) : s.forgetObuf.short = s.short := rfl
@[simp] theorem State.forgetObuf_host (s : State) : s.forgetObuf.host = s.host := rfl
@[simp] theorem State.forgetObuf_delay (s : State) : s.forgetObuf.delay = s.delay := rfl
@[simp] theorem State.forgetObuf_epoch (s : State) : s.forgetObuf.epoch = s.epoch := rfl

@[simp] theorem State.writeLfTables_params (s : State) (h f : List Nat) : (s.writeLfTables h f).params = s.params := rfl
@[simp] theorem State.writeLfTables_csr (s : State) (h f : List Nat) : (s.writeLfTables h f).csr = s.csr := rfl
@[simp] theorem State.writeLfTables_hist (s : State) (h f : List Nat) : (s.writeLfTables h f).hist = s.hist.write 0 (toWords h) := rfl
@[simp] theorem State.writeLfTables_first (s : State) (h f : List Nat) : (s.writeLfTables h f).first = s.first.write 0 (toWords f) := rfl
@[simp] theorem State.writeLfTables_tblE (s : State) (h f : List Nat) : (s.writeLfTables h f).tblE = s.tblE := rfl
@[simp] theorem State.writeLfTables_tblD (s : State) (h f : List Nat) : (s.writeLfTables h f).tblD = s.tblD := rfl
@[simp] theorem State.writeLfTables_ibuf (s : State) (h f : List Nat) : (s.writeLfTables h f).ibuf = s.ibuf := rfl
@[simp] theorem State.writeLfTables_obuf (s : State) (h f : List Nat) : (s.writeLfTables h f).obuf = s.obuf := rfl
@[simp] theorem State.writeLfTables_short (s : State) (h f : List Nat) : (s.writeLfTables h f).short = s.short := rfl
@[simp] theorem State.writeLfTables_host (s : State) (h f : List Nat) : (s.writeLfTables h f).host = s.host := rfl
@[simp] theorem State.writeLfTables_delay (s : State) (h f : List Nat) : (s.writeLfTables h f).delay = s.delay := rfl
@[simp] theorem State.writeLfTables_epoch (s : State) (h f : List Nat) : (s.writeLfTables h f).epoch = s.epoch := rfl

@[simp] theorem State.writeHistogram_params (s : State) (h : List Nat) : (s.writeHistogram h).params = s.params := rfl
@[simp] theorem State.writeHistogram_csr (s : State) (h : List Nat) : (s.writeHistogram h).csr = s.csr := rfl
@[simp] theorem State.writeHistogram_hist (s : State) (h : List Nat) : (s.writeHistogram h).hist = s.hist.write 0 (toWords h) := rfl
@[simp] theorem State.writeHistogram_first (s : State) (h : List Nat) : (s.writeHistogram h).first = s.first.write 0 (toWords (cumulative h)) := rfl
@[simp] theorem State.writeHistogram_tblE (s : State) (h : List Nat) : (s.writeHistogram h).tblE = s.tblE := rfl
@[simp] theorem State.writeHistogram_tblD (s : State) (h : List Nat) : (s.writeHistogram h).tblD = s.tblD := rfl
@[simp] theorem State.writeHistogram_ibuf (s : State) (h : List Nat) : (s.writeHistogram h).ibuf = s.ibuf := rfl
@[simp] theorem State.writeHistogram_obuf (s : State) (h : List Nat) : (s.writeHistogram h).obuf = s.obuf := rfl
@[simp] theorem State.writeHistogram_short (s : State) (h : List Nat) : (s.writeHistogram h).short = s.short := rfl
@[simp] theorem State.writeHistogram_host (s : State) (h : List Nat) : (s.writeHistogram h).host = s.host := rfl
@[simp] theorem State.writeHistogram_delay (s : State) (h : List Nat) : (s.writeHistogram h).delay = s.delay := rfl
@[simp] theorem State.writeHistogram_epoch (s : State) (h : List Nat) : (s.writeHistogram h).epoch = s.epoch := rfl

@[simp] theorem State.writeShort_params (s : State) (sc : List Nat) : (s.writeShort sc).params = s.params := rfl
@[simp] theorem State.writeShort_csr (s : State) (sc : List Nat) : (s.writeShort sc).csr = s.csr := rfl
@[simp] theorem State.writeShort_hist (s : State) (sc : List Nat) : (s.writeShort sc).hist = s.hist := rfl
@[simp] theorem State.writeShort_first (s : State) (sc : List Nat) : (s.writeShort sc).first = s.first := rfl
@[simp] theorem State.writeShort_tblE (s : State) (sc : List Nat) : (s.writeShort sc).tblE = s.tblE := rfl
@[simp] theorem State.writeShort_tblD (s : State) (sc : List Nat) : (s.writeShort sc).tblD = s.tblD := rfl
@[simp] theorem State.writeShort_ibuf (s : State) (sc : List Nat) : (s.writeShort sc).ibuf = s.ibuf := rfl
@[simp] theorem State.writeShort_obuf (s : State) (sc : List Nat) : (s.writeShort sc).obuf = s.obuf := rfl
@[simp] theorem State.writeShort_short (s : State) (sc : List Nat) : (s.writeShort sc).short = s.short.write 0 (toWords sc) := rfl
@[simp] theorem State.writeShort_host (s : State) (sc : List Nat) : (s.writeShort sc).host = s.host := rfl
@[simp] theorem State.writeShort_delay (s : State) (sc : List Nat) : (s.writeShort sc).delay = s.delay := rfl
@[simp] theorem State.writeShort_epoch (s : State) (sc : List Nat) : (s.writeShort sc).epoch = s.epoch := rfl

@[simp] theorem State.setStream_params (s : State) (a : Bool) (pb : Byte) (pc so : Nat) : (s.setStream a pb pc so).params = s.params := rfl
@[simp] theorem State.setStream_csr_status (s : State) (a : Bool) (pb : Byte) (pc so : Nat) : (s.setStream a pb pc so).csr.status = { s.csr.status with rleActive := a } := rfl
@[simp] theorem State.setStream_csr_cmd (s : State) (a : Bool) (pb : Byte) (pc so : Nat) : (s.setStream a pb pc so).csr.cmd = s.csr.cmd := rfl
@[simp] theorem State.setStream_csr_len (s : State) (a : Bool) (pb : Byte) (pc so : Nat) : (s.setStream a pb pc so).csr.len = s.csr.len := rfl
@[simp] theorem State.setStream_csr_primary (s : State) (a : Bool) (pb : Byte) (pc so : Nat) : (s.setStream a pb pc so).csr.primary = s.csr.primary := rfl
@[simp] theorem State.setStream_csr_outLen (s : State) (a : Bool) (pb : Byte) (pc so : Nat) : (s.setStream a pb pc so).csr.outLen = s.csr.outLen := rfl
@[simp] theorem State.setStream_csr_consumed (s : State) (a : Bool) (pb : Byte) (pc so : Nat) : (s.setStream a pb pc so).csr.consumed = s.csr.consumed := rfl
@[simp] theorem State.setStream_csr_errcode (s : State) (a : Bool) (pb : Byte) (pc so : Nat) : (s.setStream a pb pc so).csr.errcode = s.csr.errcode := rfl
@[simp] theorem State.setStream_csr_errinfo (s : State) (a : Bool) (pb : Byte) (pc so : Nat) : (s.setStream a pb pc so).csr.errinfo = s.csr.errinfo := rfl
@[simp] theorem State.setStream_csr_rleMax (s : State) (a : Bool) (pb : Byte) (pc so : Nat) : (s.setStream a pb pc so).csr.rleMax = s.csr.rleMax := rfl
@[simp] theorem State.setStream_csr_pendingByte (s : State) (a : Bool) (pb : Byte) (pc so : Nat) : (s.setStream a pb pc so).csr.pendingByte = pb := rfl
@[simp] theorem State.setStream_csr_pendingCount (s : State) (a : Bool) (pb : Byte) (pc so : Nat) : (s.setStream a pb pc so).csr.pendingCount = BitVec.ofNat 9 pc := rfl
@[simp] theorem State.setStream_csr_rleSout (s : State) (a : Bool) (pb : Byte) (pc so : Nat) : (s.setStream a pb pc so).csr.rleSout = BitVec.ofNat 32 so := rfl
@[simp] theorem State.setStream_csr_rleCaplim (s : State) (a : Bool) (pb : Byte) (pc so : Nat) : (s.setStream a pb pc so).csr.rleCaplim = s.csr.rleCaplim := rfl
@[simp] theorem State.setStream_csr_mtfSym (s : State) (a : Bool) (pb : Byte) (pc so : Nat) : (s.setStream a pb pc so).csr.mtfSym = s.csr.mtfSym := rfl
@[simp] theorem State.setStream_csr_irqEn (s : State) (a : Bool) (pb : Byte) (pc so : Nat) : (s.setStream a pb pc so).csr.irqEn = s.csr.irqEn := rfl
@[simp] theorem State.setStream_csr_irqStatus (s : State) (a : Bool) (pb : Byte) (pc so : Nat) : (s.setStream a pb pc so).csr.irqStatus = s.csr.irqStatus := rfl
@[simp] theorem State.setStream_hist (s : State) (a : Bool) (pb : Byte) (pc so : Nat) : (s.setStream a pb pc so).hist = s.hist := rfl
@[simp] theorem State.setStream_first (s : State) (a : Bool) (pb : Byte) (pc so : Nat) : (s.setStream a pb pc so).first = s.first := rfl
@[simp] theorem State.setStream_tblE (s : State) (a : Bool) (pb : Byte) (pc so : Nat) : (s.setStream a pb pc so).tblE = s.tblE := rfl
@[simp] theorem State.setStream_tblD (s : State) (a : Bool) (pb : Byte) (pc so : Nat) : (s.setStream a pb pc so).tblD = s.tblD := rfl
@[simp] theorem State.setStream_ibuf (s : State) (a : Bool) (pb : Byte) (pc so : Nat) : (s.setStream a pb pc so).ibuf = s.ibuf := rfl
@[simp] theorem State.setStream_obuf (s : State) (a : Bool) (pb : Byte) (pc so : Nat) : (s.setStream a pb pc so).obuf = s.obuf := rfl
@[simp] theorem State.setStream_short (s : State) (a : Bool) (pb : Byte) (pc so : Nat) : (s.setStream a pb pc so).short = s.short := rfl
@[simp] theorem State.setStream_host (s : State) (a : Bool) (pb : Byte) (pc so : Nat) : (s.setStream a pb pc so).host = s.host := rfl
@[simp] theorem State.setStream_delay (s : State) (a : Bool) (pb : Byte) (pc so : Nat) : (s.setStream a pb pc so).delay = s.delay := rfl
@[simp] theorem State.setStream_epoch (s : State) (a : Bool) (pb : Byte) (pc so : Nat) : (s.setStream a pb pc so).epoch = s.epoch := rfl

@[simp] theorem State.setCaplim_params (s : State) (v : Word) : (s.setCaplim v).params = s.params := rfl
@[simp] theorem State.setCaplim_csr_status (s : State) (v : Word) : (s.setCaplim v).csr.status = s.csr.status := rfl
@[simp] theorem State.setCaplim_csr_cmd (s : State) (v : Word) : (s.setCaplim v).csr.cmd = s.csr.cmd := rfl
@[simp] theorem State.setCaplim_csr_len (s : State) (v : Word) : (s.setCaplim v).csr.len = s.csr.len := rfl
@[simp] theorem State.setCaplim_csr_primary (s : State) (v : Word) : (s.setCaplim v).csr.primary = s.csr.primary := rfl
@[simp] theorem State.setCaplim_csr_outLen (s : State) (v : Word) : (s.setCaplim v).csr.outLen = s.csr.outLen := rfl
@[simp] theorem State.setCaplim_csr_consumed (s : State) (v : Word) : (s.setCaplim v).csr.consumed = s.csr.consumed := rfl
@[simp] theorem State.setCaplim_csr_errcode (s : State) (v : Word) : (s.setCaplim v).csr.errcode = s.csr.errcode := rfl
@[simp] theorem State.setCaplim_csr_errinfo (s : State) (v : Word) : (s.setCaplim v).csr.errinfo = s.csr.errinfo := rfl
@[simp] theorem State.setCaplim_csr_rleMax (s : State) (v : Word) : (s.setCaplim v).csr.rleMax = s.csr.rleMax := rfl
@[simp] theorem State.setCaplim_csr_pendingByte (s : State) (v : Word) : (s.setCaplim v).csr.pendingByte = s.csr.pendingByte := rfl
@[simp] theorem State.setCaplim_csr_pendingCount (s : State) (v : Word) : (s.setCaplim v).csr.pendingCount = s.csr.pendingCount := rfl
@[simp] theorem State.setCaplim_csr_rleSout (s : State) (v : Word) : (s.setCaplim v).csr.rleSout = s.csr.rleSout := rfl
@[simp] theorem State.setCaplim_csr_rleCaplim (s : State) (v : Word) : (s.setCaplim v).csr.rleCaplim = v := rfl
@[simp] theorem State.setCaplim_csr_mtfSym (s : State) (v : Word) : (s.setCaplim v).csr.mtfSym = s.csr.mtfSym := rfl
@[simp] theorem State.setCaplim_csr_irqEn (s : State) (v : Word) : (s.setCaplim v).csr.irqEn = s.csr.irqEn := rfl
@[simp] theorem State.setCaplim_csr_irqStatus (s : State) (v : Word) : (s.setCaplim v).csr.irqStatus = s.csr.irqStatus := rfl
@[simp] theorem State.setCaplim_hist (s : State) (v : Word) : (s.setCaplim v).hist = s.hist := rfl
@[simp] theorem State.setCaplim_first (s : State) (v : Word) : (s.setCaplim v).first = s.first := rfl
@[simp] theorem State.setCaplim_tblE (s : State) (v : Word) : (s.setCaplim v).tblE = s.tblE := rfl
@[simp] theorem State.setCaplim_tblD (s : State) (v : Word) : (s.setCaplim v).tblD = s.tblD := rfl
@[simp] theorem State.setCaplim_ibuf (s : State) (v : Word) : (s.setCaplim v).ibuf = s.ibuf := rfl
@[simp] theorem State.setCaplim_obuf (s : State) (v : Word) : (s.setCaplim v).obuf = s.obuf := rfl
@[simp] theorem State.setCaplim_short (s : State) (v : Word) : (s.setCaplim v).short = s.short := rfl
@[simp] theorem State.setCaplim_host (s : State) (v : Word) : (s.setCaplim v).host = s.host := rfl
@[simp] theorem State.setCaplim_delay (s : State) (v : Word) : (s.setCaplim v).delay = s.delay := rfl
@[simp] theorem State.setCaplim_epoch (s : State) (v : Word) : (s.setCaplim v).epoch = s.epoch := rfl

@[simp] theorem State.setTblE_params (s : State) (t : MtfTable) : (s.setTblE t).params = s.params := rfl
@[simp] theorem State.setTblE_csr (s : State) (t : MtfTable) : (s.setTblE t).csr = s.csr := rfl
@[simp] theorem State.setTblE_hist (s : State) (t : MtfTable) : (s.setTblE t).hist = s.hist := rfl
@[simp] theorem State.setTblE_first (s : State) (t : MtfTable) : (s.setTblE t).first = s.first := rfl
@[simp] theorem State.setTblE_tblE (s : State) (t : MtfTable) : (s.setTblE t).tblE = t := rfl
@[simp] theorem State.setTblE_tblD (s : State) (t : MtfTable) : (s.setTblE t).tblD = s.tblD := rfl
@[simp] theorem State.setTblE_ibuf (s : State) (t : MtfTable) : (s.setTblE t).ibuf = s.ibuf := rfl
@[simp] theorem State.setTblE_obuf (s : State) (t : MtfTable) : (s.setTblE t).obuf = s.obuf := rfl
@[simp] theorem State.setTblE_short (s : State) (t : MtfTable) : (s.setTblE t).short = s.short := rfl
@[simp] theorem State.setTblE_host (s : State) (t : MtfTable) : (s.setTblE t).host = s.host := rfl
@[simp] theorem State.setTblE_delay (s : State) (t : MtfTable) : (s.setTblE t).delay = s.delay := rfl
@[simp] theorem State.setTblE_epoch (s : State) (t : MtfTable) : (s.setTblE t).epoch = s.epoch := rfl

@[simp] theorem State.setTblD_params (s : State) (t : MtfTable) : (s.setTblD t).params = s.params := rfl
@[simp] theorem State.setTblD_csr (s : State) (t : MtfTable) : (s.setTblD t).csr = s.csr := rfl
@[simp] theorem State.setTblD_hist (s : State) (t : MtfTable) : (s.setTblD t).hist = s.hist := rfl
@[simp] theorem State.setTblD_first (s : State) (t : MtfTable) : (s.setTblD t).first = s.first := rfl
@[simp] theorem State.setTblD_tblE (s : State) (t : MtfTable) : (s.setTblD t).tblE = s.tblE := rfl
@[simp] theorem State.setTblD_tblD (s : State) (t : MtfTable) : (s.setTblD t).tblD = t := rfl
@[simp] theorem State.setTblD_ibuf (s : State) (t : MtfTable) : (s.setTblD t).ibuf = s.ibuf := rfl
@[simp] theorem State.setTblD_obuf (s : State) (t : MtfTable) : (s.setTblD t).obuf = s.obuf := rfl
@[simp] theorem State.setTblD_short (s : State) (t : MtfTable) : (s.setTblD t).short = s.short := rfl
@[simp] theorem State.setTblD_host (s : State) (t : MtfTable) : (s.setTblD t).host = s.host := rfl
@[simp] theorem State.setTblD_delay (s : State) (t : MtfTable) : (s.setTblD t).delay = s.delay := rfl
@[simp] theorem State.setTblD_epoch (s : State) (t : MtfTable) : (s.setTblD t).epoch = s.epoch := rfl

@[simp] theorem State.setMtfSym_params (s : State) (v : Byte) : (s.setMtfSym v).params = s.params := rfl
@[simp] theorem State.setMtfSym_csr_status (s : State) (v : Byte) : (s.setMtfSym v).csr.status = s.csr.status := rfl
@[simp] theorem State.setMtfSym_csr_cmd (s : State) (v : Byte) : (s.setMtfSym v).csr.cmd = s.csr.cmd := rfl
@[simp] theorem State.setMtfSym_csr_len (s : State) (v : Byte) : (s.setMtfSym v).csr.len = s.csr.len := rfl
@[simp] theorem State.setMtfSym_csr_primary (s : State) (v : Byte) : (s.setMtfSym v).csr.primary = s.csr.primary := rfl
@[simp] theorem State.setMtfSym_csr_outLen (s : State) (v : Byte) : (s.setMtfSym v).csr.outLen = s.csr.outLen := rfl
@[simp] theorem State.setMtfSym_csr_consumed (s : State) (v : Byte) : (s.setMtfSym v).csr.consumed = s.csr.consumed := rfl
@[simp] theorem State.setMtfSym_csr_errcode (s : State) (v : Byte) : (s.setMtfSym v).csr.errcode = s.csr.errcode := rfl
@[simp] theorem State.setMtfSym_csr_errinfo (s : State) (v : Byte) : (s.setMtfSym v).csr.errinfo = s.csr.errinfo := rfl
@[simp] theorem State.setMtfSym_csr_rleMax (s : State) (v : Byte) : (s.setMtfSym v).csr.rleMax = s.csr.rleMax := rfl
@[simp] theorem State.setMtfSym_csr_pendingByte (s : State) (v : Byte) : (s.setMtfSym v).csr.pendingByte = s.csr.pendingByte := rfl
@[simp] theorem State.setMtfSym_csr_pendingCount (s : State) (v : Byte) : (s.setMtfSym v).csr.pendingCount = s.csr.pendingCount := rfl
@[simp] theorem State.setMtfSym_csr_rleSout (s : State) (v : Byte) : (s.setMtfSym v).csr.rleSout = s.csr.rleSout := rfl
@[simp] theorem State.setMtfSym_csr_rleCaplim (s : State) (v : Byte) : (s.setMtfSym v).csr.rleCaplim = s.csr.rleCaplim := rfl
@[simp] theorem State.setMtfSym_csr_mtfSym (s : State) (v : Byte) : (s.setMtfSym v).csr.mtfSym = v := rfl
@[simp] theorem State.setMtfSym_csr_irqEn (s : State) (v : Byte) : (s.setMtfSym v).csr.irqEn = s.csr.irqEn := rfl
@[simp] theorem State.setMtfSym_csr_irqStatus (s : State) (v : Byte) : (s.setMtfSym v).csr.irqStatus = s.csr.irqStatus := rfl
@[simp] theorem State.setMtfSym_hist (s : State) (v : Byte) : (s.setMtfSym v).hist = s.hist := rfl
@[simp] theorem State.setMtfSym_first (s : State) (v : Byte) : (s.setMtfSym v).first = s.first := rfl
@[simp] theorem State.setMtfSym_tblE (s : State) (v : Byte) : (s.setMtfSym v).tblE = s.tblE := rfl
@[simp] theorem State.setMtfSym_tblD (s : State) (v : Byte) : (s.setMtfSym v).tblD = s.tblD := rfl
@[simp] theorem State.setMtfSym_ibuf (s : State) (v : Byte) : (s.setMtfSym v).ibuf = s.ibuf := rfl
@[simp] theorem State.setMtfSym_obuf (s : State) (v : Byte) : (s.setMtfSym v).obuf = s.obuf := rfl
@[simp] theorem State.setMtfSym_short (s : State) (v : Byte) : (s.setMtfSym v).short = s.short := rfl
@[simp] theorem State.setMtfSym_host (s : State) (v : Byte) : (s.setMtfSym v).host = s.host := rfl
@[simp] theorem State.setMtfSym_delay (s : State) (v : Byte) : (s.setMtfSym v).delay = s.delay := rfl
@[simp] theorem State.setMtfSym_epoch (s : State) (v : Byte) : (s.setMtfSym v).epoch = s.epoch := rfl

@[simp] theorem State.softReset_params (s : State) : s.softReset.params = s.params := rfl
@[simp] theorem State.softReset_csr (s : State) : s.softReset.csr = Csr.reset := rfl
@[simp] theorem State.softReset_hist (s : State) : s.softReset.hist = if s.csr.status.busy then [] else s.hist := rfl
@[simp] theorem State.softReset_first (s : State) : s.softReset.first = if s.csr.status.busy then [] else s.first := rfl
@[simp] theorem State.softReset_tblE (s : State) : s.softReset.tblE = MtfTable.identity := rfl
@[simp] theorem State.softReset_tblD (s : State) : s.softReset.tblD = MtfTable.identity := rfl
@[simp] theorem State.softReset_ibuf (s : State) : s.softReset.ibuf = s.ibuf := rfl
@[simp] theorem State.softReset_obuf (s : State) : s.softReset.obuf = if s.csr.status.busy then [] else s.obuf := rfl
@[simp] theorem State.softReset_short (s : State) : s.softReset.short = if s.csr.status.busy then [] else s.short := rfl
@[simp] theorem State.softReset_host (s : State) : s.softReset.host = s.host := rfl
@[simp] theorem State.softReset_delay (s : State) : s.softReset.delay = 0 := rfl
@[simp] theorem State.softReset_epoch (s : State) : s.softReset.epoch = s.epoch := rfl

@[simp] theorem State.dropWrite_params (s : State) : s.dropWrite.params = s.params := rfl
@[simp] theorem State.dropWrite_csr_status (s : State) : s.dropWrite.csr.status = { s.csr.status with wrBusy := true } := rfl
@[simp] theorem State.dropWrite_csr_cmd (s : State) : s.dropWrite.csr.cmd = s.csr.cmd := rfl
@[simp] theorem State.dropWrite_csr_len (s : State) : s.dropWrite.csr.len = s.csr.len := rfl
@[simp] theorem State.dropWrite_csr_primary (s : State) : s.dropWrite.csr.primary = s.csr.primary := rfl
@[simp] theorem State.dropWrite_csr_outLen (s : State) : s.dropWrite.csr.outLen = s.csr.outLen := rfl
@[simp] theorem State.dropWrite_csr_consumed (s : State) : s.dropWrite.csr.consumed = s.csr.consumed := rfl
@[simp] theorem State.dropWrite_csr_errcode (s : State) : s.dropWrite.csr.errcode = s.csr.errcode := rfl
@[simp] theorem State.dropWrite_csr_errinfo (s : State) : s.dropWrite.csr.errinfo = s.csr.errinfo := rfl
@[simp] theorem State.dropWrite_csr_rleMax (s : State) : s.dropWrite.csr.rleMax = s.csr.rleMax := rfl
@[simp] theorem State.dropWrite_csr_pendingByte (s : State) : s.dropWrite.csr.pendingByte = s.csr.pendingByte := rfl
@[simp] theorem State.dropWrite_csr_pendingCount (s : State) : s.dropWrite.csr.pendingCount = s.csr.pendingCount := rfl
@[simp] theorem State.dropWrite_csr_rleSout (s : State) : s.dropWrite.csr.rleSout = s.csr.rleSout := rfl
@[simp] theorem State.dropWrite_csr_rleCaplim (s : State) : s.dropWrite.csr.rleCaplim = s.csr.rleCaplim := rfl
@[simp] theorem State.dropWrite_csr_mtfSym (s : State) : s.dropWrite.csr.mtfSym = s.csr.mtfSym := rfl
@[simp] theorem State.dropWrite_csr_irqEn (s : State) : s.dropWrite.csr.irqEn = s.csr.irqEn := rfl
@[simp] theorem State.dropWrite_csr_irqStatus (s : State) : s.dropWrite.csr.irqStatus = s.csr.irqStatus := rfl
@[simp] theorem State.dropWrite_hist (s : State) : s.dropWrite.hist = s.hist := rfl
@[simp] theorem State.dropWrite_first (s : State) : s.dropWrite.first = s.first := rfl
@[simp] theorem State.dropWrite_tblE (s : State) : s.dropWrite.tblE = s.tblE := rfl
@[simp] theorem State.dropWrite_tblD (s : State) : s.dropWrite.tblD = s.tblD := rfl
@[simp] theorem State.dropWrite_ibuf (s : State) : s.dropWrite.ibuf = s.ibuf := rfl
@[simp] theorem State.dropWrite_obuf (s : State) : s.dropWrite.obuf = s.obuf := rfl
@[simp] theorem State.dropWrite_short (s : State) : s.dropWrite.short = s.short := rfl
@[simp] theorem State.dropWrite_host (s : State) : s.dropWrite.host = s.host := rfl
@[simp] theorem State.dropWrite_delay (s : State) : s.dropWrite.delay = s.delay := rfl
@[simp] theorem State.dropWrite_epoch (s : State) : s.dropWrite.epoch = s.epoch := rfl

@[simp] theorem State.dropCommand_params (s : State) : s.dropCommand.params = s.params := rfl
@[simp] theorem State.dropCommand_csr_status (s : State) : s.dropCommand.csr.status = { s.csr.status with cmdOvr := true } := rfl
@[simp] theorem State.dropCommand_csr_cmd (s : State) : s.dropCommand.csr.cmd = s.csr.cmd := rfl
@[simp] theorem State.dropCommand_csr_len (s : State) : s.dropCommand.csr.len = s.csr.len := rfl
@[simp] theorem State.dropCommand_csr_primary (s : State) : s.dropCommand.csr.primary = s.csr.primary := rfl
@[simp] theorem State.dropCommand_csr_outLen (s : State) : s.dropCommand.csr.outLen = s.csr.outLen := rfl
@[simp] theorem State.dropCommand_csr_consumed (s : State) : s.dropCommand.csr.consumed = s.csr.consumed := rfl
@[simp] theorem State.dropCommand_csr_errcode (s : State) : s.dropCommand.csr.errcode = s.csr.errcode := rfl
@[simp] theorem State.dropCommand_csr_errinfo (s : State) : s.dropCommand.csr.errinfo = s.csr.errinfo := rfl
@[simp] theorem State.dropCommand_csr_rleMax (s : State) : s.dropCommand.csr.rleMax = s.csr.rleMax := rfl
@[simp] theorem State.dropCommand_csr_pendingByte (s : State) : s.dropCommand.csr.pendingByte = s.csr.pendingByte := rfl
@[simp] theorem State.dropCommand_csr_pendingCount (s : State) : s.dropCommand.csr.pendingCount = s.csr.pendingCount := rfl
@[simp] theorem State.dropCommand_csr_rleSout (s : State) : s.dropCommand.csr.rleSout = s.csr.rleSout := rfl
@[simp] theorem State.dropCommand_csr_rleCaplim (s : State) : s.dropCommand.csr.rleCaplim = s.csr.rleCaplim := rfl
@[simp] theorem State.dropCommand_csr_mtfSym (s : State) : s.dropCommand.csr.mtfSym = s.csr.mtfSym := rfl
@[simp] theorem State.dropCommand_csr_irqEn (s : State) : s.dropCommand.csr.irqEn = s.csr.irqEn := rfl
@[simp] theorem State.dropCommand_csr_irqStatus (s : State) : s.dropCommand.csr.irqStatus = s.csr.irqStatus := rfl
@[simp] theorem State.dropCommand_hist (s : State) : s.dropCommand.hist = s.hist := rfl
@[simp] theorem State.dropCommand_first (s : State) : s.dropCommand.first = s.first := rfl
@[simp] theorem State.dropCommand_tblE (s : State) : s.dropCommand.tblE = s.tblE := rfl
@[simp] theorem State.dropCommand_tblD (s : State) : s.dropCommand.tblD = s.tblD := rfl
@[simp] theorem State.dropCommand_ibuf (s : State) : s.dropCommand.ibuf = s.ibuf := rfl
@[simp] theorem State.dropCommand_obuf (s : State) : s.dropCommand.obuf = s.obuf := rfl
@[simp] theorem State.dropCommand_short (s : State) : s.dropCommand.short = s.short := rfl
@[simp] theorem State.dropCommand_host (s : State) : s.dropCommand.host = s.host := rfl
@[simp] theorem State.dropCommand_delay (s : State) : s.dropCommand.delay = s.delay := rfl
@[simp] theorem State.dropCommand_epoch (s : State) : s.dropCommand.epoch = s.epoch := rfl

@[simp] theorem State.setAcc_params (s : State) (v : Word) : (s.setAcc v).params = s.params := rfl
@[simp] theorem State.setAcc_csr (s : State) (v : Word) : (s.setAcc v).csr = s.csr := rfl
@[simp] theorem State.setAcc_hist (s : State) (v : Word) : (s.setAcc v).hist = s.hist := rfl
@[simp] theorem State.setAcc_first (s : State) (v : Word) : (s.setAcc v).first = s.first := rfl
@[simp] theorem State.setAcc_tblE (s : State) (v : Word) : (s.setAcc v).tblE = s.tblE := rfl
@[simp] theorem State.setAcc_tblD (s : State) (v : Word) : (s.setAcc v).tblD = s.tblD := rfl
@[simp] theorem State.setAcc_ibuf (s : State) (v : Word) : (s.setAcc v).ibuf = s.ibuf := rfl
@[simp] theorem State.setAcc_obuf (s : State) (v : Word) : (s.setAcc v).obuf = s.obuf := rfl
@[simp] theorem State.setAcc_short (s : State) (v : Word) : (s.setAcc v).short = s.short := rfl
@[simp] theorem State.setAcc_host (s : State) (v : Word) : (s.setAcc v).host = { s.host with acc := v } := rfl
@[simp] theorem State.setAcc_delay (s : State) (v : Word) : (s.setAcc v).delay = s.delay := rfl
@[simp] theorem State.setAcc_epoch (s : State) (v : Word) : (s.setAcc v).epoch = s.epoch := rfl

@[simp] theorem State.hostGoto_params (s : State) (p : Nat) : (s.hostGoto p).params = s.params := rfl
@[simp] theorem State.hostGoto_csr (s : State) (p : Nat) : (s.hostGoto p).csr = s.csr := rfl
@[simp] theorem State.hostGoto_hist (s : State) (p : Nat) : (s.hostGoto p).hist = s.hist := rfl
@[simp] theorem State.hostGoto_first (s : State) (p : Nat) : (s.hostGoto p).first = s.first := rfl
@[simp] theorem State.hostGoto_tblE (s : State) (p : Nat) : (s.hostGoto p).tblE = s.tblE := rfl
@[simp] theorem State.hostGoto_tblD (s : State) (p : Nat) : (s.hostGoto p).tblD = s.tblD := rfl
@[simp] theorem State.hostGoto_ibuf (s : State) (p : Nat) : (s.hostGoto p).ibuf = s.ibuf := rfl
@[simp] theorem State.hostGoto_obuf (s : State) (p : Nat) : (s.hostGoto p).obuf = s.obuf := rfl
@[simp] theorem State.hostGoto_short (s : State) (p : Nat) : (s.hostGoto p).short = s.short := rfl
@[simp] theorem State.hostGoto_host (s : State) (p : Nat) : (s.hostGoto p).host = { s.host with pc := p } := rfl
@[simp] theorem State.hostGoto_delay (s : State) (p : Nat) : (s.hostGoto p).delay = s.delay := rfl
@[simp] theorem State.hostGoto_epoch (s : State) (p : Nat) : (s.hostGoto p).epoch = s.epoch + 1 := rfl

@[simp] theorem State.countHostStep_params (s : State) : s.countHostStep.params = s.params := rfl
@[simp] theorem State.countHostStep_csr (s : State) : s.countHostStep.csr = s.csr := rfl
@[simp] theorem State.countHostStep_hist (s : State) : s.countHostStep.hist = s.hist := rfl
@[simp] theorem State.countHostStep_first (s : State) : s.countHostStep.first = s.first := rfl
@[simp] theorem State.countHostStep_tblE (s : State) : s.countHostStep.tblE = s.tblE := rfl
@[simp] theorem State.countHostStep_tblD (s : State) : s.countHostStep.tblD = s.tblD := rfl
@[simp] theorem State.countHostStep_ibuf (s : State) : s.countHostStep.ibuf = s.ibuf := rfl
@[simp] theorem State.countHostStep_obuf (s : State) : s.countHostStep.obuf = s.obuf := rfl
@[simp] theorem State.countHostStep_short (s : State) : s.countHostStep.short = s.short := rfl
@[simp] theorem State.countHostStep_host (s : State) : s.countHostStep.host = s.host := rfl
@[simp] theorem State.countHostStep_delay (s : State) : s.countHostStep.delay = s.delay - 1 := rfl
@[simp] theorem State.countHostStep_epoch (s : State) : s.countHostStep.epoch = s.epoch := rfl

@[simp] theorem State.loadHost_params (s : State) (pr : List HostOp) : (s.loadHost pr).params = s.params := rfl
@[simp] theorem State.loadHost_csr (s : State) (pr : List HostOp) : (s.loadHost pr).csr = s.csr := rfl
@[simp] theorem State.loadHost_hist (s : State) (pr : List HostOp) : (s.loadHost pr).hist = s.hist := rfl
@[simp] theorem State.loadHost_first (s : State) (pr : List HostOp) : (s.loadHost pr).first = s.first := rfl
@[simp] theorem State.loadHost_tblE (s : State) (pr : List HostOp) : (s.loadHost pr).tblE = s.tblE := rfl
@[simp] theorem State.loadHost_tblD (s : State) (pr : List HostOp) : (s.loadHost pr).tblD = s.tblD := rfl
@[simp] theorem State.loadHost_ibuf (s : State) (pr : List HostOp) : (s.loadHost pr).ibuf = s.ibuf := rfl
@[simp] theorem State.loadHost_obuf (s : State) (pr : List HostOp) : (s.loadHost pr).obuf = s.obuf := rfl
@[simp] theorem State.loadHost_short (s : State) (pr : List HostOp) : (s.loadHost pr).short = s.short := rfl
@[simp] theorem State.loadHost_host (s : State) (pr : List HostOp) : (s.loadHost pr).host = ⟨pr, 0, 0#32⟩ := rfl
@[simp] theorem State.loadHost_delay (s : State) (pr : List HostOp) : (s.loadHost pr).delay = s.delay := rfl
@[simp] theorem State.loadHost_epoch (s : State) (pr : List HostOp) : (s.loadHost pr).epoch = s.epoch := rfl

@[simp] theorem Status.accepted_busy (f : Status) : f.accepted.busy = true := rfl
@[simp] theorem Status.accepted_done (f : Status) : f.accepted.done = false := rfl
@[simp] theorem Status.accepted_err (f : Status) : f.accepted.err = false := rfl
@[simp] theorem Status.accepted_cmdOvr (f : Status) : f.accepted.cmdOvr = f.cmdOvr := rfl
@[simp] theorem Status.accepted_wrBusy (f : Status) : f.accepted.wrBusy = f.wrBusy := rfl
@[simp] theorem Status.accepted_rleActive (f : Status) : f.accepted.rleActive = f.rleActive := rfl
@[simp] theorem Status.completed_busy (f : Status) (e : Bool) : (f.completed e).busy = false := rfl
@[simp] theorem Status.completed_done (f : Status) (e : Bool) : (f.completed e).done = true := rfl
@[simp] theorem Status.completed_err (f : Status) (e : Bool) : (f.completed e).err = e := rfl
@[simp] theorem Status.completed_cmdOvr (f : Status) (e : Bool) : (f.completed e).cmdOvr = f.cmdOvr := rfl
@[simp] theorem Status.completed_wrBusy (f : Status) (e : Bool) : (f.completed e).wrBusy = f.wrBusy := rfl
@[simp] theorem Status.completed_rleActive (f : Status) (e : Bool) : (f.completed e).rleActive = f.rleActive := rfl
@[simp] theorem Status.writeOneClears_busy (f : Status) (v : Word) : (f.writeOneClears v).busy = f.busy := rfl
@[simp] theorem Status.writeOneClears_done (f : Status) (v : Word) : (f.writeOneClears v).done = f.done := rfl
@[simp] theorem Status.writeOneClears_err (f : Status) (v : Word) : (f.writeOneClears v).err = f.err := rfl
@[simp] theorem Status.writeOneClears_cmdOvr (f : Status) (v : Word) : (f.writeOneClears v).cmdOvr = (f.cmdOvr && !v.getLsbD 3) := rfl
@[simp] theorem Status.writeOneClears_wrBusy (f : Status) (v : Word) : (f.writeOneClears v).wrBusy = (f.wrBusy && !v.getLsbD 4) := rfl
@[simp] theorem Status.writeOneClears_rleActive (f : Status) (v : Word) : (f.writeOneClears v).rleActive = f.rleActive := rfl
@[simp] theorem IrqBits.raised_done (q : IrqBits) (e : Bool) : (q.raised e).done = true := rfl
@[simp] theorem IrqBits.raised_err (q : IrqBits) (e : Bool) : (q.raised e).err = (q.err || e) := rfl
@[simp] theorem IrqBits.writeOneClears_done (q : IrqBits) (v : Word) : (q.writeOneClears v).done = (q.done && !v.getLsbD 0) := rfl
@[simp] theorem IrqBits.writeOneClears_err (q : IrqBits) (v : Word) : (q.writeOneClears v).err = (q.err && !v.getLsbD 1) := rfl

@[simp] theorem State.writeObuf_input (s : State) (a : Nat) (bs : List Byte) (n : Nat) :
    (s.writeObuf a bs).input n = s.input n := rfl

@[simp] theorem State.input_length (s : State) (n : Nat) : (s.input n).length = n := by simp [State.input]

end Sys2Proof.Machine
end

