-- ==== Sys2Proof/Laws/Ops.lean ====
section
/-! SUPPORT. What each shared operation can do, said once: the two ends of a completion step, the ends of the commands
that can overflow, the lengths of the pure functions' results, host accesses, and the case split of a step. -/

namespace Sys2Proof.Machine

open Sys2Proof

/-! ## The two ends of a completion step -/

/-- `complete` on values that fit 32 bits. -/
theorem State.complete_succeeded {s t : State} {o c : Nat} (ho : o ≤ wordMax) (hc : c ≤ wordMax)
    (hirq : t.csr.irqStatus = s.csr.irqStatus) : Succeeded s (t.complete o c) o c := by
  unfold wordMax at *
  simp [Succeeded, hirq, Nat.mod_eq_of_lt (show o < 4294967296 by omega),
    Nat.mod_eq_of_lt (show c < 4294967296 by omega)]

/-- `error_completion` changes the registers of R184 only. -/
theorem State.errorCompletion_failedPrecisely (s : State) (e : ErrCode) (v : Word) :
    FailedPrecisely s (s.errorCompletion e v) e.toByte v.toNat := by
  simp [FailedPrecisely, Failed, SameOperands, SameStream, SameMtf, SameLf]

/-- ERRINFO of OUT_OVERFLOW as a number. -/
@[simp] theorem overflowInfo_toNat (n : Nat) : (overflowInfo n).toNat = min n 4294967295 := by
  simp only [overflowInfo, wordMax, BitVec.toNat_ofNat]
  omega

theorem ErrCode.toByte_ne_zero (e : ErrCode) : e.toByte ≠ 0#8 := by cases e <;> decide

theorem ErrCode.toByte_le (e : ErrCode) : e.toByte.toNat ≤ 7 := by cases e <;> decide

/-! ## Stores of naturals -/

theorem storedAt_write {w : Nat} (m : Memory w) (a : Nat) (vs : List (BitVec w)) : StoredAt m (m.write a vs) a vs :=
  fun i => Memory.read?_write m a vs i

@[simp] theorem toWords_length (ns : List Nat) : (toWords ns).length = ns.length := by simp [toWords]

/-- Writing naturals that fit 32 bits from index 0 on. -/
theorem holdsNats_write (m : Memory 32) (ns : List Nat) (h : ∀ n ∈ ns, n ≤ wordMax) :
    HoldsNats m (m.write 0 (toWords ns)) ns := by
  intro i
  rw [Memory.read?_write]
  simp only [toWords_length, Nat.zero_le, true_and, Nat.zero_add, Nat.sub_zero]
  split
  · rename_i hi
    have := h _ (List.getElem_mem hi)
    unfold wordMax at this
    simp [toWords, List.getElem?_eq_getElem hi, Nat.mod_eq_of_lt (show ns[i] < 4294967296 by omega)]
  · rfl

/-! ## The lengths of the pure functions' results -/

theorem encodeRun_length (b : Byte) (r : Nat) : (encodeRun b r).length = runCost r := by
  unfold encodeRun runCost
  split_ifs <;> simp <;> omega

@[simp] theorem encodeRun_zero (b : Byte) : encodeRun b 0 = [] := rfl

/-- The identity table is a permutation: it holds no byte twice (10_state R47). -/
theorem identity_nodup : MtfTable.identity.toList.Nodup := by
  simp only [MtfTable.identity, Vector.toList_mk]
  refine List.Nodup.map_on (fun a ha b hb h => ?_) List.nodup_range
  have h' := congrArg BitVec.toNat h
  simp only [List.mem_range] at ha hb
  simpa only [BitVec.toNat_ofNat, Nat.mod_eq_of_lt ha, Nat.mod_eq_of_lt hb] using h'

@[simp] theorem cumFrom_length (acc : Nat) (h : List Nat) : (cumFrom acc h).length = h.length := by
  induction h generalizing acc with
  | nil => rfl
  | cons x h ih => simp [cumFrom, ih]

@[simp] theorem cumulative_length (h : List Nat) : (cumulative h).length = h.length := cumFrom_length 0 h

@[simp] theorem shortcutFrom_length (seen col : List Byte) : (shortcutFrom seen col).length = col.length := by
  induction col generalizing seen with
  | nil => rfl
  | cons b bs ih => simp [shortcutFrom, ih]

@[simp] theorem shortcut_length (col : List Byte) : (shortcut col).length = col.length := shortcutFrom_length [] col

@[simp] theorem sortedFrom_length (b : Nat) (h : List Nat) : (sortedFrom b h).length = h.sum := by
  induction h generalizing b with
  | nil => rfl
  | cons x h ih => simp [sortedFrom, ih]

@[simp] theorem sortedColumn_length (h : List Nat) : (sortedColumn h).length = h.sum := sortedFrom_length 0 h

@[simp] theorem lfLoop_length (col : List Byte) (first sc : List Nat) (k idx : Nat) (o : List Byte) :
    (lfLoop col first sc k idx o).length = k + o.length := by
  induction k generalizing idx o with
  | zero => simp [lfLoop]
  | succ k ih => simp [lfLoop, ih]; omega

@[simp] theorem inverseBwt_length (col : List Byte) (p : Nat) : (inverseBwt col p).length = col.length := by
  simp [inverseBwt]

@[simp] theorem mtfBatch_length (f : MtfTable → Byte → Byte × MtfTable) (t : MtfTable) (xs : List Byte) :
    (mtfBatch f t xs).1.length = xs.length := by
  induction xs generalizing t with
  | nil => rfl
  | cons x xs ih => simp [mtfBatch, ih]

/-- Every running sum is at most the whole sum. -/
theorem cumFrom_le (acc : Nat) (h : List Nat) : ∀ n ∈ cumFrom acc h, n ≤ acc + h.sum := by
  induction h generalizing acc with
  | nil => simp [cumFrom]
  | cons x h ih =>
    intro n hn
    simp only [cumFrom, List.mem_cons] at hn
    rcases hn with rfl | hn
    · omega
    · have := ih _ n hn
      simp only [List.sum_cons]
      omega

/-- Every shortcut is below the length of what has been scanned. -/
theorem shortcutFrom_le (seen col : List Byte) : ∀ n ∈ shortcutFrom seen col, n ≤ seen.length + col.length := by
  induction col generalizing seen with
  | nil => simp [shortcutFrom]
  | cons b bs ih =>
    intro n hn
    simp only [shortcutFrom, List.mem_cons] at hn
    rcases hn with rfl | hn
    · have := List.count_le_length (a := b) (l := seen)
      simp only [List.length_cons]
      omega
    · have := ih _ n hn
      simp only [List.length_cons] at this ⊢
      omega

/-! ## The push loop -/

/-- What the push loop keeps (41_rle R129): the capacity, the run cap, and never more bytes consumed than given. -/
theorem pushLoop_keeps {cap max sout : Nat} (hcap : 1 ≤ cap) {p : PushLoop} {bs : List Byte}
    (hp : p.pc ≤ cap) (hm : sout + p.flushed.length + runCost p.pc ≤ max) :
    (pushLoop cap max sout p bs).pc ≤ cap ∧
      sout + (pushLoop cap max sout p bs).flushed.length + runCost (pushLoop cap max sout p bs).pc ≤ max ∧
      (pushLoop cap max sout p bs).k ≤ p.k + bs.length := by
  induction bs generalizing p with
  | nil => simp [pushLoop, hp, hm]
  | cons b bs ih =>
    unfold pushLoop
    split
    · split
      · exact ⟨hp, hm, by omega⟩
      · obtain ⟨h1, h2, h3⟩ := ih (p := ⟨p.pb, p.pc + 1, p.flushed, p.k + 1⟩) (by simp; omega) (by simp; omega)
        exact ⟨h1, h2, by simp only [List.length_cons] at h3 ⊢; omega⟩
    · split
      · exact ⟨hp, hm, by omega⟩
      · rename_i hlt
        rw [encodeRun_length] at hlt
        obtain ⟨h1, h2, h3⟩ := ih (p := ⟨b, 1, p.flushed ++ encodeRun p.pb p.pc, p.k + 1⟩) hcap
          (by simp [encodeRun_length, runCost]; simp [runCost] at hlt; omega)
        exact ⟨h1, h2, by simp only [List.length_cons] at h3 ⊢; omega⟩

/-! ## Host accesses -/

theorem csrLoc?_isSome (n : Nat) : (csrLoc? n).isSome = true ↔ n / 4 < 21 ∨ (0x400 ≤ n ∧ n < 0xE00) := by
  unfold csrLoc?
  split_ifs <;> simp [csrRegisters] <;> omega

/-- The access check, condition by condition. -/
theorem accessAllowed_iff_conditions (p : Params) (sp : Space) (off : Offset) (width : Nat) (write : Bool) :
    accessAllowed p sp off width write = true ↔
      sp.takesWidth width = true ∧ off.toNat % width = 0 ∧ off.toNat + width ≤ sp.size p ∧
        (sp = .csr → off.toNat / 4 < 21 ∨ (0x400 ≤ off.toNat ∧ off.toNat < 0xE00)) ∧ (sp = .work → write = false) := by
  unfold accessAllowed
  rw [Bool.and_eq_true, Bool.and_eq_true, Bool.and_eq_true, Bool.and_eq_true, Bool.or_eq_true, csrLoc?_isSome,
    decide_eq_true_eq, beq_iff_eq, bne_iff_ne]
  constructor
  · rintro ⟨⟨⟨⟨h1, h2⟩, h3⟩, h4⟩, h5⟩
    refine ⟨h1, h2, h3, fun h => h4.resolve_left (fun h' => h' h), ?_⟩
    rintro rfl
    simpa using h5
  · rintro ⟨h1, h2, h3, h4, h5⟩
    refine ⟨⟨⟨⟨h1, h2⟩, h3⟩, ?_⟩, ?_⟩
    · by_cases h : sp = .csr
      · exact .inr (h4 h)
      · exact .inl h
    · by_cases h : sp = .work
      · simp [h5 h]
      · simp [h]

/-- The access check is the legality of 20_memory R65 and R67. -/
theorem accessAllowed_iff (p : Params) (sp : Space) (off : Offset) (width : Nat) (write : Bool) :
    accessAllowed p sp off width write = true ↔ LegalAccess p sp off width write := by
  rw [accessAllowed_iff_conditions]
  cases sp <;> simp only [LegalAccess, Space.takesWidth, Space.size, Bool.or_eq_true, beq_iff_eq]
  · constructor
    · rintro ⟨rfl, h1, h2, h3, -⟩
      have := h3 trivial
      exact ⟨rfl, h1, by omega⟩
    · rintro ⟨rfl, h1, h2⟩
      exact ⟨rfl, h1, by omega, fun _ => by omega, by simp⟩
  · constructor
    · rintro ⟨h0, h1, h2, -, -⟩
      refine ⟨?_, h2⟩
      rcases h0 with (rfl | rfl) | rfl <;> simp [h1]
    · rintro ⟨h0, h2⟩
      refine ⟨by omega, ?_, h2, by simp, by simp⟩
      rcases h0 with rfl | ⟨rfl, h1⟩ | ⟨rfl, h1⟩ <;> omega
  · constructor
    · rintro ⟨h0, h1, h2, -, -⟩
      refine ⟨?_, h2⟩
      rcases h0 with (rfl | rfl) | rfl <;> simp [h1]
    · rintro ⟨h0, h2⟩
      refine ⟨by omega, ?_, h2, by simp, by simp⟩
      rcases h0 with rfl | ⟨rfl, h1⟩ | ⟨rfl, h1⟩ <;> omega
  · constructor
    · rintro ⟨rfl, h1, h2, -, h4⟩
      exact ⟨h4 trivial, rfl, h1, h2⟩
    · rintro ⟨h4, rfl, h1, h2⟩
      exact ⟨rfl, h1, h2, by simp, fun _ => h4⟩

@[simp] theorem splitBytes_length (v : Word) (k : Nat) : (splitBytes v k).length = k := by
  induction k generalizing v with
  | zero => rfl
  | succ k ih => simp [splitBytes, ih]

/-- Byte `j` of the split value is bits [8j+7:8j] (20_memory R64). -/
theorem splitBytes_getElem? (v : Word) (k j : Nat) (hj : j < k) :
    (splitBytes v k)[j]? = some (v.extractLsb' (8 * j) 8) := by
  induction k generalizing v j with
  | zero => omega
  | succ k ih =>
    cases j with
    | zero =>
      simp only [splitBytes, List.getElem?_cons_zero, Nat.mul_zero, Option.some.injEq]
      ext i hi
      simp [BitVec.getElem_extractLsb']
    | succ j =>
      simp only [splitBytes, List.getElem?_cons_succ, ih _ _ (show j < k by omega), Option.some.injEq]
      ext i hi
      simp [BitVec.getElem_extractLsb']
      congr 1
      omega

/-! ## The step -/

/-- When the engine's step is due. -/
theorem engineDue_iff (s : State) :
    s.engineDue s.hostEnabled = true ↔ s.csr.status.busy = true ∧ (s.delay = 0 ∨ s.hostOp? = none) := by
  simp [State.engineDue, State.hostEnabled]

theorem step_of_due {s : State} (hb : s.csr.status.busy = true) (hd : s.delay = 0 ∨ s.hostOp? = none) :
    step s = engineStep s := by
  unfold step
  rw [if_pos ((engineDue_iff s).2 ⟨hb, hd⟩)]

theorem step_of_not_due {s : State} (h : s.csr.status.busy = false ∨ (0 < s.delay ∧ s.hostOp? ≠ none)) :
    step s = hostStep s := by
  unfold step
  rw [if_neg]
  rw [engineDue_iff]
  rintro ⟨hb, hd⟩
  rcases h with h | ⟨h1, h2⟩
  · simp [hb] at h
  · rcases hd with hd | hd
    · omega
    · exact h2 hd

/-- The engine's step always answers a next state. -/
theorem engineStep_next (s : State) : ∃ t, engineStep s = .next t := by
  unfold engineStep
  split
  · exact ⟨_, rfl⟩
  · rename_i i _
    cases i <;> exact ⟨_, rfl⟩

/-- What a host write can leave (10_state §2, 20_memory R70): the state itself, a dropped write or command, an accepted
command, a soft reset, one register, a HIST entry, or bytes of a buffer inside it. -/
theorem hostWrite_cases (s : State) (sp : Space) (off : Offset) (width : Nat) (v : Word) :
    let t := (hostWrite s sp off width v).2
    t = s ∨ (s.csr.status.busy = true ∧ (t = s.dropWrite ∨ t = s.dropCommand)) ∨
      (s.csr.status.busy = false ∧ t = s.accept v) ∨ t = s.softReset ∨
      t = { s with csr := { s.csr with status := s.csr.status.writeOneClears v } } ∨
      t = { s with csr := { s.csr with irqEn := IrqBits.ofWord v } } ∨
      t = { s with csr := { s.csr with irqStatus := s.csr.irqStatus.writeOneClears v } } ∨
      (s.csr.status.busy = false ∧
        (t = { s with csr := { s.csr with len := v } } ∨ t = { s with csr := { s.csr with primary := v } } ∨
          t = { s with csr := { s.csr with rleMax := v } } ∨ (∃ b, b < 256 ∧ t = { s with hist := s.hist.write b [v] }) ∨
          (∃ a bs, a + bs.length ≤ s.params.ibufBytes ∧ t = { s with ibuf := s.ibuf.write a bs }) ∨
          (∃ a bs, a + bs.length ≤ s.params.obufBytes ∧ t = { s with obuf := s.obuf.write a bs }))) := by
  intro t
  by_cases ha : accessAllowed s.params sp off width true = true
  · have ht : t = s.spaceWrite sp off width v := by simp [t, hostWrite, ha]
    have hl := (accessAllowed_iff _ _ _ _ _).1 ha
    rw [ht]
    cases sp with
    | csr =>
      simp only [State.spaceWrite]
      cases hloc : csrLoc? off.toNat with
      | none => simp
      | some loc =>
        have hb : ∀ b, loc = .hist b → b < 256 := by
          rintro b rfl
          unfold csrLoc? at hloc
          split_ifs at hloc with h1 h2
          · exfalso
            have := List.mem_of_getElem? hloc
            simp [csrRegisters] at this
          · simp only [Option.some.injEq, CsrLoc.hist.injEq] at hloc
            omega
          all_goals simp at hloc
        cases hbusy : s.csr.status.busy <;> cases loc <;>
          simp only [State.csrWrite, State.whileIdle, hbusy, Option.map_some, Option.getD_some, if_true, if_false,
            Bool.false_eq_true] <;> try (simp; done)
        · split <;> simp
        · rename_i b
          have := hb b rfl
          exact .inr (.inr (.inr (.inr (.inr (.inr (.inr ⟨trivial, .inr (.inr (.inr (.inl ⟨b, this, rfl⟩)))⟩))))))
        · split <;> simp
    | ibuf =>
      simp only [State.spaceWrite, State.whileIdle]
      cases hbusy : s.csr.status.busy
      · refine .inr (.inr (.inr (.inr (.inr (.inr (.inr ⟨rfl, .inr (.inr (.inr (.inr (.inl ⟨off.toNat, splitBytes v width, ?_, ?_⟩))))⟩))))))
        · simpa using hl.2
        · simp
      · simp
    | obuf =>
      simp only [State.spaceWrite, State.whileIdle]
      cases hbusy : s.csr.status.busy
      · refine .inr (.inr (.inr (.inr (.inr (.inr (.inr ⟨rfl, .inr (.inr (.inr (.inr (.inr ⟨off.toNat, splitBytes v width, ?_, ?_⟩))))⟩))))))
        · simpa using hl.2
        · simp
      · simp
    | work => exact absurd hl.1 (by simp)
  · left
    simp [t, hostWrite, ha]

/-- No host write touches the host agent, the parameters or `epoch`: the host moves on by its own step (30_encoding R100). -/
theorem hostWrite_host (s : State) (sp : Space) (off : Offset) (width : Nat) (v : Word) :
    (hostWrite s sp off width v).2.host = s.host ∧ (hostWrite s sp off width v).2.params = s.params ∧
      (hostWrite s sp off width v).2.epoch = s.epoch := by
  simp only [hostWrite]
  split
  · cases sp <;> simp only [State.spaceWrite, State.whileIdle, State.dropWrite]
    · cases csrLoc? off.toNat with
      | none => simp
      | some l =>
        cases l <;>
          simp [State.csrWrite, State.whileIdle, State.dropWrite, State.dropCommand, State.accept, State.softReset] <;>
          split <;> simp
    · split <;> simp
    · split <;> simp
    · simp
  · simp

/-- A host operation that answers a next state leaves what a host write leaves, or the state itself; only the host agent,
`epoch` and (through acceptance and reset) `delay` move beside it. -/
theorem runHostOp_cases {s t : State} {o : HostOp} (h : s.runHostOp o = .next t) :
    ∃ sp off width v u, (u = s ∨ u = (hostWrite s sp off width v).2) ∧
      t.params = u.params ∧ t.csr = u.csr ∧ t.hist = u.hist ∧ t.first = u.first ∧ t.tblE = u.tblE ∧ t.tblD = u.tblD ∧
      t.ibuf = u.ibuf ∧ t.obuf = u.obuf ∧ t.short = u.short ∧ t.delay = u.delay := by
  cases o with
  | wr sp off w v =>
    simp only [State.runHostOp] at h
    split at h
    · rename_i d u hw
      simp only [Host.Outcome.next.injEq] at h
      subst h
      exact ⟨sp, off, w.bytes, v, u, .inr (by rw [hw]), rfl, rfl, rfl, rfl, rfl, rfl, rfl, rfl, rfl, rfl⟩
    · simp at h
  | rd sp off w =>
    simp only [State.runHostOp] at h
    split at h
    · simp only [Host.Outcome.next.injEq] at h
      subst h
      exact ⟨sp, off, w.bytes, 0#32, s, .inl rfl, rfl, rfl, rfl, rfl, rfl, rfl, rfl, rfl, rfl, rfl⟩
    · simp at h
  | andi v =>
    simp only [State.runHostOp, Host.Outcome.next.injEq] at h
    subst h
    exact ⟨.csr, 0, 0, 0, s, .inl rfl, rfl, rfl, rfl, rfl, rfl, rfl, rfl, rfl, rfl, rfl⟩
  | bnz l =>
    simp only [State.runHostOp, Host.Outcome.next.injEq] at h
    subst h
    refine ⟨.csr, 0, 0, 0, s, .inl rfl, ?_⟩
    split <;> exact ⟨rfl, rfl, rfl, rfl, rfl, rfl, rfl, rfl, rfl, rfl⟩
  | bz l =>
    simp only [State.runHostOp, Host.Outcome.next.injEq] at h
    subst h
    refine ⟨.csr, 0, 0, 0, s, .inl rfl, ?_⟩
    split <;> exact ⟨rfl, rfl, rfl, rfl, rfl, rfl, rfl, rfl, rfl, rfl⟩
  | halt =>
    simp only [State.runHostOp, Host.Outcome.next.injEq] at h
    subst h
    exact ⟨.csr, 0, 0, 0, s, .inl rfl, rfl, rfl, rfl, rfl, rfl, rfl, rfl, rfl, rfl, rfl⟩

end Sys2Proof.Machine
end

