-- ==== Sys2Proof/Laws/PerInstr.lean ====
section
/-! SUPPORT. Statements made per command, one lemma per constructor: the word of a command is well formed, its OPC
is the one R93 assigns, and its fields stand where R90 puts them. -/

namespace Sys2Proof.Laws

open Sys2Proof

/-- The word of a command is a well-formed command word (30_encoding R91, R93, R95). -/
def EncodedWordWellFormed.Statement (i : Instr) : Prop :=
  CommandWord.wellFormed (encode i) = true ∧ CommandWord.opc (encode i) = opcodeOf i

theorem EncodedWordWellFormed.nop : EncodedWordWellFormed.Statement .nop := by
  unfold EncodedWordWellFormed.Statement; decide

theorem EncodedWordWellFormed.rleEnc : EncodedWordWellFormed.Statement .rleEnc := by
  unfold EncodedWordWellFormed.Statement; decide

theorem EncodedWordWellFormed.rleDec : EncodedWordWellFormed.Statement .rleDec := by
  unfold EncodedWordWellFormed.Statement; decide

theorem EncodedWordWellFormed.rleSinit : EncodedWordWellFormed.Statement .rleSinit := by
  unfold EncodedWordWellFormed.Statement; decide

theorem EncodedWordWellFormed.rleSpush : EncodedWordWellFormed.Statement .rleSpush := by
  unfold EncodedWordWellFormed.Statement; decide

theorem EncodedWordWellFormed.rleSfin : EncodedWordWellFormed.Statement .rleSfin := by
  unfold EncodedWordWellFormed.Statement; decide

theorem EncodedWordWellFormed.bwtHist : EncodedWordWellFormed.Statement .bwtHist := by
  unfold EncodedWordWellFormed.Statement; decide

theorem EncodedWordWellFormed.bwtCsort (h : Bool) : EncodedWordWellFormed.Statement (.bwtCsort h) := by
  unfold EncodedWordWellFormed.Statement; revert h; decide

theorem EncodedWordWellFormed.bwtInv : EncodedWordWellFormed.Statement .bwtInv := by
  unfold EncodedWordWellFormed.Statement; decide

theorem EncodedWordWellFormed.mtfInit (e d : Bool) : EncodedWordWellFormed.Statement (.mtfInit e d) := by
  unfold EncodedWordWellFormed.Statement; revert e d; decide

theorem EncodedWordWellFormed.mtfEnc (i : Bool) : EncodedWordWellFormed.Statement (.mtfEnc i) := by
  unfold EncodedWordWellFormed.Statement; revert i; decide

theorem EncodedWordWellFormed.mtfDec (i : Bool) : EncodedWordWellFormed.Statement (.mtfDec i) := by
  unfold EncodedWordWellFormed.Statement; revert i; decide

theorem EncodedWordWellFormed.mtfEnc1 (sym : Byte) : EncodedWordWellFormed.Statement (.mtfEnc1 sym) := by
  unfold EncodedWordWellFormed.Statement; revert sym; decide +kernel

theorem EncodedWordWellFormed.mtfDec1 (sym : Byte) : EncodedWordWellFormed.Statement (.mtfDec1 sym) := by
  unfold EncodedWordWellFormed.Statement; revert sym; decide +kernel

end Sys2Proof.Laws
end

