-- ==== Sys2Proof/Tests/Slice0.lean ====
section
/-! SUPPORT. Tests of the model against the words, tables and vectors of spec/ (30_encoding R93, 95_test_vectors,
the examples of 40–43), each one step; and, for every obligation with hypotheses, states and operands that meet them. -/

namespace Sys2Proof.Tests

open Sys2Proof Sys2Proof.Machine

/-! ## Decoding: one word per constructor, written out from R90, R91 and R93 -/

theorem test_decode_nop : decode 0b00000000000000000000000000000000#32 = .ok .nop := by decide
theorem test_decode_rleEnc : decode 0b00000000000000000000000000010000#32 = .ok .rleEnc := by decide
theorem test_decode_rleDec : decode 0b00000000000000000000000000010001#32 = .ok .rleDec := by decide
theorem test_decode_rleSinit : decode 0b00000000000000000000000000010010#32 = .ok .rleSinit := by decide
theorem test_decode_rleSpush : decode 0b00000000000000000000000000010011#32 = .ok .rleSpush := by decide
theorem test_decode_rleSfin : decode 0b00000000000000000000000000010100#32 = .ok .rleSfin := by decide
theorem test_decode_bwtHist : decode 0b00000000000000000000000000100000#32 = .ok .bwtHist := by decide
theorem test_decode_bwtCsort : decode 0b00000000000000000000000100100001#32 = .ok (.bwtCsort true) := by decide
theorem test_decode_bwtInv : decode 0b00000000000000000000000000100010#32 = .ok .bwtInv := by decide
theorem test_decode_mtfInit : decode 0b00000000000000000000001000110000#32 = .ok (.mtfInit false true) := by decide
theorem test_decode_mtfEnc : decode 0b00000000000000000000000100110001#32 = .ok (.mtfEnc true) := by decide
theorem test_decode_mtfDec : decode 0b00000000000000000000000000110010#32 = .ok (.mtfDec false) := by decide
theorem test_decode_mtfEnc1 : decode 0b00000000011000100000000000110011#32 = .ok (.mtfEnc1 0x62#8) := by decide
theorem test_decode_mtfDec1 : decode 0b00000000111111110000000000110100#32 = .ok (.mtfDec1 0xFF#8) := by decide

/-- T-C2, T-C3, T-C4: unassigned opcodes, whatever the other bits. -/
theorem test_decode_illegal : decode 0xFF#32 = .error .illegalOpcode ∧ decode 0x15#32 = .error .illegalOpcode ∧
    decode 0x115#32 = .error .illegalOpcode := by decide

/-- T-C5 to T-C9: a reserved bit for each format (F, ED, S, N, N). -/
theorem test_decode_reserved : decode 0x221#32 = .error .reservedField ∧ decode 0x430#32 = .error .reservedField ∧
    decode 0x01620033#32 = .error .reservedField ∧ decode 0x00010022#32 = .error .reservedField ∧
    decode 0x113#32 = .error .reservedField := by decide

/-- R102, and the example words of R93. -/
theorem test_encode : encode (.mtfEnc1 0x62#8) = 0x00620033#32 ∧ encode (.mtfInit true true) = 0x00000330#32 ∧
    encode (.bwtCsort true) = 0x00000121#32 ∧ encode .bwtInv = 0x00000022#32 := by decide

theorem test_decodeTableWord : decodeTableWord 32 0x00FF0034 = some (.mtfDec1 0xFF#8) ∧
    decodeTableWord 8 0x22 = some .bwtInv ∧ decodeTableWord 32 0x23 = none := by decide

/-! ## Ill-formed words, one per check of WellFormed -/

theorem test_illformed_opcode : CommandWord.wellFormed 0x00000023#32 = false := by decide
theorem test_illformed_n : CommandWord.wellFormed 0x00000110#32 = false := by decide
theorem test_illformed_f : CommandWord.wellFormed 0x00000231#32 = false := by decide
theorem test_illformed_ed : CommandWord.wellFormed 0x00008030#32 = false := by decide
theorem test_illformed_s : CommandWord.wellFormed 0x00620134#32 = false := by decide
theorem test_wellformed : CommandWord.wellFormed 0x00620034#32 = true := by decide

/-! ## The bench: the conventions of 95_test_vectors (IBUF_BYTES = OBUF_BYTES = 64, RLE_RUN_CAP = 255) -/

/-- Bytes written as numbers. -/
def bytes (ns : List Nat) : List Byte := ns.map (BitVec.ofNat 8)

/-- After power-on, with `input` in IBUF from offset 0, LEN its length, and the capacity of OBUF given. -/
def benchCap (obufBytes : Nat) (input : List Nat) : State :=
  { State.resetWith ⟨64, obufBytes, 255⟩ with
    ibuf := Memory.cells 0 (bytes input)
    csr := { Csr.reset with len := BitVec.ofNat 32 input.length } }

/-- The same with 64 bytes of OBUF. -/
def bench (input : List Nat) : State := benchCap 64 input

/-- Set PRIMARY. -/
def withPrimary (s : State) (p : Nat) : State := { s with csr := { s.csr with primary := BitVec.ofNat 32 p } }

/-- The step that completes the command word `w`, accepted in `s`. -/
def runWord (s : State) (w : Nat) : State :=
  match step (s.withFetchWord 32 w) with
  | .next t => t
  | _ => s

/-- OUT_LEN, CONSUMED, ERRCODE, ERRINFO, STATUS as numbers. -/
def regs (s : State) : Nat × Nat × Nat × Nat × Nat :=
  (s.csr.outLen.toNat, s.csr.consumed.toNat, s.csr.errcode.toNat, s.csr.errinfo.toNat, s.csr.status.toWord.toNat)

/-- What OBUF holds, as (offset, byte) numbers. -/
def out (s : State) : List (Nat × Nat) := s.obuf.map fun c => (c.1, c.2.toNat)

/-- OBUF[0..) holding these bytes and nothing more. -/
def holds (ns : List Nat) : List (Nat × Nat) := (List.range ns.length).zip ns

/-- Word `off` of the CSR space. -/
def csr (s : State) (off : Nat) : Nat := (hostRead s .csr (BitVec.ofNat 34 off) 4).data.toNat

/-! ## One step per command, against the vectors -/

/-- T-C1. -/
theorem test_nop : regs (runWord (bench []) 0x0) = (0, 0, 0, 0, 2) := by decide +kernel

/-- T-C2: an illegal opcode; both pending bits. -/
theorem test_illegal : regs (runWord (bench []) 0xFF) = (0, 0, 1, 0xFF, 6) ∧ csr (runWord (bench []) 0xFF) 0x44 = 3 := by
  decide +kernel

/-- T-RE10: runs of 2, 3 and 4. -/
theorem test_rleEnc :
    out (runWord (bench [0x61, 0x61, 0x62, 0x62, 0x62, 0x63, 0x63, 0x63, 0x63]) 0x10) =
      holds [0x61, 0x61, 0x62, 0x62, 0x62, 0x63, 0x63, 0x63, 0x63, 0] := by decide +kernel

/-- T-RE15: a run of 259 is a full unit of 255 and a unit of 4. -/
theorem test_rleEnc_cap : rleEnc 255 (List.replicate 259 0x61#8) =
    bytes [0x61, 0x61, 0x61, 0x61, 0xFB, 0x61, 0x61, 0x61, 0x61, 0] := by decide +kernel

/-- T-C18: the imprecise overflow. -/
theorem test_rleEnc_overflow :
    regs (runWord (benchCap 4 [0x61, 0x62, 0x63, 0x64, 0x65, 0x66, 0x67, 0x68]) 0x10) = (0, 0, 5, 8, 6) := by
  decide +kernel

/-- T-D10: a continuation, then a window at the very end. -/
theorem test_rleDec : out (runWord (bench [0x61, 0x61, 0x61, 0x61, 1, 0x61, 0x61, 0x61, 0x61]) 0x11) =
    holds (List.replicate 9 0x61) := by decide +kernel

/-- T-D1, T-D3, T-D8: the boundary window, 4 + c copies, an equal prefix of 3. -/
theorem test_rleDec_windows : rleDec (bytes [0x61, 0x61, 0x61, 0x61]) = bytes [0x61, 0x61, 0x61, 0x61] ∧
    rleDec (bytes [0x61, 0x61, 0x61, 0x61, 5]) = List.replicate 9 0x61#8 ∧
    rleDec (bytes [0x61, 0x61, 0x61, 0x62]) = bytes [0x61, 0x61, 0x61, 0x62] := by decide +kernel

/-- A state with RLE_MAX = `max` in which RLE.SINIT has completed. -/
def streamOf (max : Nat) (input : List Nat) : State :=
  runWord { bench input with csr := { (bench input).csr with rleMax := BitVec.ofNat 32 max } } 0x12

/-- T-S13, R128's example. -/
theorem test_rleSinit : csr (streamOf 16 []) 0x0C = 0x22 ∧ csr (streamOf 16 []) 0x38 = 16 := by decide +kernel

/-- T-C11: RLE_MAX = 65 with 64 bytes of OBUF. -/
theorem test_rleSinit_range : regs (streamOf 65 []) = (0, 0, 7, 65, 6) := by decide +kernel

/-- T-S3: the seventh byte would not fit. -/
theorem test_rleSpush :
    let t := runWord (streamOf 6 [0x61, 0x62, 0x63, 0x61, 0x61, 0x61, 0x61, 0x61]) 0x13
    (csr t 0x20, csr t 0x34, csr t 0x30, out t) = (6, 3, 0x361, holds [0x61, 0x62, 0x63]) := by decide +kernel

/-- T-C10: no stream. -/
theorem test_rleSpush_inactive : regs (runWord (bench []) 0x13) = (0, 0, 6, 0x13, 6) := by decide +kernel

/-- T-S3 after SFIN, and T-S12: a second SFIN is an error. -/
theorem test_rleSfin :
    let t := runWord (runWord (streamOf 6 [0x61, 0x62, 0x63, 0x61, 0x61, 0x61, 0x61, 0x61]) 0x13) 0x14
    out t = holds [0x61, 0x62, 0x63, 0x61, 0x61, 0x61] ∧ regs t = (6, 0, 0, 0, 2) ∧
      regs (runWord t 0x14) = (0, 0, 6, 0x14, 6) := by decide +kernel

/-- T-B1: HIST and FIRST of "banana". -/
theorem test_bwtHist :
    let t := runWord (bench [0x62, 0x61, 0x6E, 0x61, 0x6E, 0x61]) 0x20
    (csr t (0x400 + 4 * 0x61), csr t (0x400 + 4 * 0x62), csr t (0x800 + 4 * 0x62), csr t (0x800 + 4 * 0x6E),
      csr t (0x800 + 4 * 0xFF)) = (3, 1, 3, 4, 6) := by decide +kernel

/-- T-B2: H = 1. -/
theorem test_bwtCsort : out (runWord (bench [0x62, 0x61, 0x6E, 0x61, 0x6E, 0x61]) 0x121) =
    holds [0x61, 0x61, 0x61, 0x62, 0x6E, 0x6E] := by decide +kernel

/-- T-C20: H = 0, HIST[b] = 1 for all b. -/
theorem test_bwtCsort_overflow :
    regs (runWord { bench [] with hist := Memory.cells 0 (List.replicate 256 1#32) } 0x21) = (0, 0, 5, 256, 6) := by
  decide +kernel

/-- T-I1: "nnbaaa", 3. -/
theorem test_bwtInv :
    let t := runWord (withPrimary (bench [0x6E, 0x6E, 0x62, 0x61, 0x61, 0x61]) 3) 0x22
    out t = holds [0x62, 0x61, 0x6E, 0x61, 0x6E, 0x61] ∧ t.short.map (·.2.toNat) = [0, 1, 0, 0, 1, 2] := by
  decide +kernel

/-- T-C14: PRIMARY is checked before the overflow; T-C17: not at all with LEN = 0. -/
theorem test_bwtInv_checks :
    regs (runWord (withPrimary (benchCap 4 [0x6E, 0x6E, 0x62, 0x61, 0x61, 0x61]) 20) 0x22) = (0, 0, 4, 20, 6) ∧
    regs (runWord (withPrimary (bench []) 77) 0x22) = (0, 0, 0, 0, 2) := by decide +kernel

/-- R161: only the table whose flag is 1. -/
theorem test_mtfInit :
    let s := runWord (runWord (bench []) 0x00620033) 0x00FF0034
    csr (runWord s 0x130) 0xC00 = 0x03020100 ∧ csr (runWord s 0x130) 0xD00 = 0x020100FF := by decide +kernel

/-- T-M1. -/
theorem test_mtfEnc :
    let t := runWord (bench [0x62, 0x61, 0x6E, 0x61, 0x6E, 0x61, 0x61, 0x61]) 0x131
    out t = holds [0x62, 0x62, 0x6E, 1, 1, 1, 0, 0] ∧ csr t 0xC00 = 0x00626E61 ∧ csr t 0xC04 = 0x04030201 := by
  decide +kernel

/-- T-C19: the overflow leaves TBL_E as it was. -/
theorem test_mtfEnc_overflow :
    regs (runWord (benchCap 4 [0x6E, 0x6E, 0x62, 0x61, 0x61, 0x61]) 0x131) = (0, 0, 5, 6, 6) := by decide +kernel

/-- T-M10. -/
theorem test_mtfDec : out (runWord (bench [0xFF, 0xFF, 0, 1]) 0x132) = holds [0xFF, 0xFE, 0xFE, 0xFF] := by decide +kernel

/-- T-M12, T-M13. -/
theorem test_mtfEnc1 :
    let t := runWord (bench []) 0x00620033
    (csr t 0x3C, csr t 0xC00) = (0x62, 0x02010062) ∧
      (csr (runWord t 0x00610033) 0x3C, csr (runWord t 0x00610033) 0xC00) = (0x62, 0x01006261) := by decide +kernel

/-- T-M14. -/
theorem test_mtfDec1 :
    let t := runWord (bench []) 0x00FF0034
    (csr t 0x3C, csr t 0xD00, csr t 0xDFC) = (0xFF, 0x020100FF, 0xFEFDFCFB) := by decide +kernel

/-! ## Host accesses and reset -/

/-- A state with the command word 0 in flight, LEN = 5, and `d` host steps to its completion. -/
def inFlight (d : Nat) : State :=
  { (bench []).acceptNow 0#32 with csr := { ((bench []).acceptNow 0#32).csr with len := 5#32 }, delay := d }

/-- T-H1: two dropped writes while BUSY. -/
theorem test_busy_writes :
    let t := (hostWrite (hostWrite (inFlight 9) .csr 0x014#34 4 9#32).2 .csr 0x010#34 4 0x20#32).2
    (csr t 0x0C, csr t 0x14, csr t 0x10) = (0x19, 5, 0) := by decide +kernel

/-- T-H5: the constants and the table windows after reset. -/
theorem test_reset_reads : (csr State.reset 0, csr State.reset 4, csr State.reset 0xC00, csr State.reset 0xCFC,
    csr State.reset 0xD00) = (0x42544531, 0x00010000, 0x03020100, 0xFFFEFDFC, 0x03020100) := by decide +kernel

/-- T-H6 to T-H9: bus errors. -/
theorem test_bus_errors : hostRead (bench []) .csr 0x054#34 4 = .busError ∧ hostRead (bench []) .csr 0x014#34 2 = .busError ∧
    (hostWrite (bench []) .work 0#34 4 1#32).1 = .busError ∧ (hostWrite (bench []) .ibuf 1#34 2 0x1234#32).1 = .busError := by
  decide +kernel

/-- T-H10: little-endian. -/
theorem test_little_endian :
    hostRead (hostWrite (bench []) .ibuf 0#34 4 0x61626E6E#32).2 .ibuf 2#34 1 = .ok 0x62#32 := by decide +kernel

/-- T-C21, T-C22: acknowledge, and the interrupt line. -/
theorem test_irq :
    let t := runWord (bench []) 0xFF
    csr (hostWrite t .csr 0x044#34 4 2#32).2 0x44 = 1 ∧ t.irq = false ∧
      (hostWrite t .csr 0x040#34 4 1#32).2.irq = true := by decide +kernel

/-- T-H3: soft reset while BUSY; IBUF is kept, OBUF becomes unspecified. -/
theorem test_soft_reset :
    let s := { (bench [0x6E]).acceptNow 0x22#32 with obuf := [(0, 7#8)] }
    let t := (hostWrite s .csr 0x008#34 4 1#32).2
    (csr t 0x0C, csr t 0x14, t.ibuf, t.obuf) = (0, 0, [(0, 0x6E#8)], []) := by decide +kernel

/-- R103: the polling loop of `wait` reads STATUS, masks BUSY and branches back to its first operation. -/
theorem test_wait : assemble (asmCmd .bwtInv ++ asmWait 1 ++ [.halt]) =
    some [.wr .csr 0x010#34 .word 0x22#32, .rd .csr 0x00C#34 .word, .andi 1#32, .bnz 1, .halt] := by decide +kernel

/-- R100: an unknown label and a label defined twice. -/
theorem test_labels : assemble [.bnz 1] = none ∧ assemble [.label 1, .label 1] = none := by decide +kernel

/-- R104: `wr.bytes` and `rd.bytes`. -/
theorem test_wrBytes : assemble (asmWrBytes .ibuf 4#34 (bytes [7, 8]) ++ asmRdBytes .obuf 0#34 2) =
    some [.wr .ibuf 4#34 .byte 7#32, .wr .ibuf 5#34 .byte 8#32, .rd .obuf 0#34 .byte, .rd .obuf 1#34 .byte] := by
  decide +kernel

/-! ## Witnesses: states and operands that meet the hypotheses of the obligations, clause by clause -/

/-- The answer of a step, or `s` where it stops. -/
def nextOr (s : State) : Host.Outcome State Fault Refusal → State
  | .next t => t
  | _ => s

/-- The answer is a next state. -/
def answers : Host.Outcome State Fault Refusal → Bool
  | .next _ => true
  | _ => false

theorem next_of_answers {o : Host.Outcome State Fault Refusal} (s : State) (h : answers o = true) :
    o = .next (nextOr s o) := by
  cases o <;> simp_all [answers, nextOr]

/-- The command word `w` in flight, its completion due. -/
def due (w : Word) : State := (bench []).acceptNow w

/-- A command in flight, `d` host steps before its completion, with the host program `ops`. -/
def hosted (d : Nat) (ops : List HostOp) : State := { inFlight d with host := ⟨ops, 0, 1#32⟩ }

/-- Idle, with the host program `ops`. -/
def idleHost (ops : List HostOp) : State := { bench [] with host := ⟨ops, 0, 1#32⟩ }

theorem witness_EncodeInvertsDecode : decode 0x00620033#32 = .ok (.mtfEnc1 0x62#8) := by decide

theorem witness_StepRunsDecodedCommand :
    ((due 0x22#32).csr.status.busy = true ∧ (due 0x22#32).delay = 0 ∧ decode (due 0x22#32).csr.cmd = .ok .bwtInv) ∧
    (inFlight 3).csr.status.busy = true ∧ (inFlight 3).delay = 3 ∧ (inFlight 3).hostOp? = none ∧
      decode (inFlight 3).csr.cmd = .ok .nop := by decide +kernel

theorem witness_UndecodableCommandsEndInError :
    ((due 0x115#32).csr.status.busy = true ∧ (due 0x115#32).delay = 0 ∧
      CommandWord.opcodeAssigned (due 0x115#32).csr.cmd = false) ∧
    ((due 0x80000034#32).csr.status.busy = true ∧ (due 0x80000034#32).delay = 0 ∧
      CommandWord.opcodeAssigned (due 0x80000034#32).csr.cmd = true ∧
      CommandWord.reservedClear (due 0x80000034#32).csr.cmd = false) := by decide +kernel

theorem witness_CommandWriteWhileIdleIsAccepted : (bench []).csr.status.busy = false := by decide +kernel

theorem witness_CommandWriteWhileBusyOnlySetsOverrun : (inFlight 2).csr.status.busy = true ∧
    engineStep (inFlight 2) = .next (nextOr (bench []) (engineStep (inFlight 2))) :=
  ⟨by decide +kernel, next_of_answers _ (by decide +kernel)⟩

/-- OperandsFixedWhileBusy, AcceptedCommandIsCompleted: a dropped write leaves the command in flight. -/
theorem witness_OperandsFixedWhileBusy :
    let s := hosted 1 [.wr .csr 0x014#34 .word 9#32, .halt]
    let t := nextOr s (step s)
    step s = .next t ∧ s.csr.status.busy = true ∧ 0 < s.delay ∧ s.hostOp? ≠ none ∧ t.csr.status.busy = true ∧
      t.delay = 0 :=
  ⟨next_of_answers _ (by decide +kernel), by decide +kernel⟩

theorem witness_AcceptedCommandIsCompleted : (due 0xFF#32).csr.status.busy = true ∧ (due 0xFF#32).delay = 0 ∧
    (inFlight 7).csr.status.busy = true ∧ (inFlight 7).hostOp? = none := by decide +kernel

/-- The last legal and the first illegal access at each bound. -/
theorem witness_BusErrorsExactlyOnIllegalAccesses :
    (LegalAccess (bench []).params .csr 0x050#34 4 true ∧ ¬ LegalAccess (bench []).params .csr 0x054#34 4 true) ∧
    (¬ LegalAccess (bench []).params .csr 0x3FC#34 4 false ∧ LegalAccess (bench []).params .csr 0x400#34 4 false) ∧
    (LegalAccess (bench []).params .csr 0xDFC#34 4 false ∧ ¬ LegalAccess (bench []).params .csr 0xE00#34 4 false) ∧
    (LegalAccess (bench []).params .work 252#34 4 false ∧ ¬ LegalAccess (bench []).params .work 256#34 4 false) ∧
    ¬ LegalAccess (bench []).params .work 252#34 4 true ∧
    (LegalAccess (bench []).params .ibuf 63#34 1 true ∧ ¬ LegalAccess (bench []).params .ibuf 64#34 1 true) ∧
    (LegalAccess (bench []).params .obuf 60#34 4 false ∧ ¬ LegalAccess (bench []).params .obuf 62#34 4 false) ∧
    ¬ LegalAccess (bench []).params .ibuf 1#34 2 false := by
  simp [LegalAccess, bench, benchCap, State.resetWith]

theorem witness_BusErrorFaultsTheHostProgram :
    let s := idleHost [.wr .work 0#34 .word 0#32]
    let t := hosted 1 [.rd .csr 0x054#34 .word]
    (s.csr.status.busy = false ∧ s.hostOp? = some (.wr .work 0#34 .word 0#32) ∧
      ¬ LegalAccess s.params .work 0#34 Width.word.bytes true) ∧
    0 < t.delay ∧ t.hostOp? = some (.rd .csr 0x054#34 .word) ∧
      ¬ LegalAccess t.params .csr 0x054#34 Width.word.bytes false := by
  refine ⟨⟨by decide +kernel, by decide +kernel, ?_⟩, by decide +kernel, by decide +kernel, ?_⟩ <;>
    simp [LegalAccess, Width.bytes]

/-- HostOperationsRun, its `wr` clause: idle, and with a command in flight. -/
theorem witness_HostOperationsRun_write :
    let s := idleHost [.wr .ibuf 63#34 .byte 7#32]
    let t := hosted 1 [.wr .csr 0x044#34 .word 3#32]
    (s.csr.status.busy = false ∧ s.hostOp? = some (.wr .ibuf 63#34 .byte 7#32) ∧
      LegalAccess s.params .ibuf 63#34 Width.byte.bytes true) ∧
    0 < t.delay ∧ t.hostOp? = some (.wr .csr 0x044#34 .word 3#32) ∧
      LegalAccess t.params .csr 0x044#34 Width.word.bytes true := by
  refine ⟨⟨by decide +kernel, by decide +kernel, ?_⟩, by decide +kernel, by decide +kernel, ?_⟩ <;>
    simp [LegalAccess, Width.bytes, idleHost, bench, benchCap, State.resetWith]

theorem witness_HostOperationsRun :
    ((idleHost [.rd .csr 0x000#34 .word]).csr.status.busy = false ∧
      (idleHost [.rd .csr 0x000#34 .word]).hostOp? = some (.rd .csr 0x000#34 .word) ∧
      hostRead (idleHost [.rd .csr 0x000#34 .word]) .csr 0x000#34 4 = .ok 0x42544531#32) ∧
    (0 < (hosted 1 [.andi 1#32]).delay ∧ (hosted 1 [.andi 1#32]).hostOp? = some (.andi 1#32)) ∧
    (idleHost [.bnz 5]).hostOp? = some (.bnz 5) ∧ (idleHost [.bz 0]).hostOp? = some (.bz 0) ∧
    (idleHost [.halt]).hostOp? = none ∧ (idleHost []).hostOp? = none := by decide +kernel

/-- BufferWritesAreLittleEndian at both ends of each buffer. -/
theorem witness_BufferWritesAreLittleEndian : (bench []).csr.status.busy = false ∧
    LegalAccess (bench []).params .ibuf 0#34 4 true ∧ LegalAccess (bench []).params .ibuf 62#34 2 true ∧
    LegalAccess (bench []).params .obuf 0#34 1 true ∧ LegalAccess (bench []).params .obuf 60#34 4 true := by
  refine ⟨by decide +kernel, ?_⟩
  simp [LegalAccess, bench, benchCap, State.resetWith]

/-- IdleTableReads, its buffer clauses: a byte of OBUF that a command wrote, while idle, and IBUF while BUSY, each at the
end of the buffer. -/
theorem witness_IdleTableReads_buffers :
    let t := runWord (bench (List.replicate 64 0x61)) 0x131
    let u := (bench (List.replicate 64 0x61)).acceptNow 0x131#32
    (t.csr.status.busy = false ∧ t.obuf.read? 0 = some 0x61#8 ∧ t.obuf.read? 63 = some 0#8) ∧
      (u.csr.status.busy = true ∧ u.ibuf.read? 60 = some 0x61#8 ∧ u.ibuf.read? 63 = some 0x61#8) ∧
      LegalAccess t.params .obuf 63#34 1 false ∧ LegalAccess u.params .ibuf 60#34 4 false := by
  refine ⟨by decide +kernel, by decide +kernel, ?_, ?_⟩
  · have h : (runWord (bench (List.replicate 64 0x61)) 0x131).params = ⟨64, 64, 255⟩ := by decide +kernel
    simp only [h]
    simp [LegalAccess]
  · simp [LegalAccess, State.acceptNow, State.accept, bench, benchCap, State.resetWith]

/-- IdleRegisterWrites, IdleTableReads: idle, and entries 0 and 255 of the tables specified. -/
theorem witness_IdleTableReads :
    let t := runWord (withPrimary (bench [0x6E, 0x6E, 0x62, 0x61, 0x61, 0x61]) 3) 0x22
    t.csr.status.busy = false ∧ t.hist.read? 0 = some 0#32 ∧ t.hist.read? 255 = some 0#32 ∧
      t.first.read? 0 = some 0#32 ∧ t.first.read? 255 = some 6#32 ∧ t.short.read? 0 = some 0#32 ∧
      t.short.read? 5 = some 2#32 ∧ 5 < t.params.ibufBytes ∧ t.params.ibufBytes ≤ wordMax := by decide +kernel

theorem witness_IdleRegisterWrites : (bench []).csr.status.busy = false ∧ 0 < 256 ∧ 255 < 256 ∧
    (0x050#34 : Offset) ∈ [0x000#34, 0x004#34, 0x01C#34, 0x020#34, 0x024#34, 0x028#34, 0x030#34, 0x034#34, 0x038#34,
        0x03C#34, 0x048#34, 0x04C#34, 0x050#34] ∧ 0 < 384 ∧ 383 < 384 := by decide +kernel

theorem witness_WritesWhileBusyAreDropped : (inFlight 1).csr.status.busy = true ∧
    (LegalAccess (inFlight 1).params .csr 0x014#34 4 true ∧ ¬ WritableWhileBusy .csr 0x014#34) ∧
    (LegalAccess (inFlight 1).params .csr 0xDFC#34 4 true ∧ ¬ WritableWhileBusy .csr 0xDFC#34) ∧
    (LegalAccess (inFlight 1).params .ibuf 0#34 1 true ∧ ¬ WritableWhileBusy .ibuf 0#34) ∧
    (0xFFFFFFFE#32).getLsbD 0 = false ∧ (1#32).getLsbD 0 = true := by
  refine ⟨by decide +kernel, ?_⟩
  simp [LegalAccess, WritableWhileBusy, inFlight, State.acceptNow, State.accept, bench, benchCap, State.resetWith]

theorem witness_AcknowledgeClearsWrittenBits :
    let t := (hostWrite (due 0xFF#32) .csr 0x044#34 4 3#32).2
    engineStep t = .next (nextOr t (engineStep t)) ∧ (nextOr t (engineStep t)).csr.status.err = true ∧
      (t.csr.irqStatus.done && t.csr.irqEn.done) = false ∧ (t.csr.irqStatus.err && t.csr.irqEn.err) = false :=
  ⟨next_of_answers _ (by decide +kernel), by decide +kernel⟩

theorem witness_BusyReadsRevealNothing :
    let s := inFlight 1
    let t := { s with obuf := [(0, 7#8)], hist := [(0, 7#32)] }
    s.csr.status.busy = true ∧ t.csr.status.busy = true ∧ t.params = s.params ∧ t.epoch = s.epoch ∧
      t.obuf ≠ s.obuf ∧ 0x400 ≤ (0x400#34 : Offset).toNat := by decide +kernel

theorem witness_SoftResetRestoresTheRegisters : (1#32).getLsbD 0 = true ∧ (0xFFFFFFFF#32).getLsbD 0 = true ∧
    (bench []).csr.status.busy = false ∧ (inFlight 1).csr.status.busy = true := by decide +kernel

/-- ErrorsArePrecise: the imprecise overflow of RLE.ENC, and a precise error. InterruptFollowsPendingAndEnable: the
same completions, and both sources of `irq`. -/
theorem witness_ErrorsArePrecise :
    let s := (benchCap 4 [0x61, 0x62, 0x63, 0x64, 0x65, 0x66, 0x67, 0x68]).acceptNow 0x10#32
    let t := nextOr s (engineStep s)
    let p := due 0xFF#32
    let q := nextOr p (engineStep p)
    engineStep s = .next t ∧ engineStep p = .next q ∧
    (t.csr.status.err = true ∧ t.csr.errcode = 0x05#8 ∧ s.csr.cmd = 0x00000010#32) ∧
    q.csr.status.err = true ∧ q.csr.errcode = 0x01#8 :=
  ⟨next_of_answers _ (by decide +kernel), next_of_answers _ (by decide +kernel), by decide +kernel⟩

theorem witness_InterruptFollowsPendingAndEnable :
    let q := nextOr (bench []) (engineStep (due 0xFF#32))
    engineStep (due 0xFF#32) = .next q ∧
      ({ q with csr := { q.csr with irqEn := ⟨true, false⟩ } } : State).irq = true ∧
      ({ q with csr := { q.csr with irqEn := ⟨false, true⟩ } } : State).irq = true ∧ q.irq = false :=
  ⟨next_of_answers _ (by decide +kernel), by decide +kernel⟩

/-- OnlyTheNamedCommandsWrite: one command outside each list and inside it. -/
theorem witness_OnlyTheNamedCommandsWrite :
    exec .nop (bench []) = .next (nextOr (bench []) (exec .nop (bench []))) ∧
    Instr.nop ∉ [Instr.rleSinit, .rleSpush, .rleSfin] ∧ (∀ x, Instr.nop ≠ .mtfEnc1 x ∧ Instr.nop ≠ .mtfDec1 x) ∧
    (∀ e d x, Instr.nop ≠ .mtfInit e d ∧ Instr.nop ≠ .mtfEnc e ∧ Instr.nop ≠ .mtfEnc1 x) ∧
    (∀ e d x, Instr.nop ≠ .mtfInit e d ∧ Instr.nop ≠ .mtfDec e ∧ Instr.nop ≠ .mtfDec1 x) ∧
    Instr.nop ∉ [Instr.bwtHist, .bwtCsort true, .bwtCsort false, .bwtInv] ∧ Instr.nop ≠ .bwtInv := by
  refine ⟨rfl, ?_⟩
  simp

/-- RleEncWritesEncoding, RleDecWritesDecoding, BwtHistCountsInput, CsortSortsTheInput, MtfEncWritesDistances,
MtfDecWritesBytes: an empty input, and one that fills IBUF and OBUF. -/
theorem witness_input_commands :
    ∀ ns ∈ [[], List.replicate 64 0x61], (bench ns).params.Legal ∧
      (bench ns).csr.len.toNat ≤ (bench ns).params.ibufBytes ∧ (bench ns).csr.len.toNat ≤ (bench ns).params.obufBytes ∧
      (rleEnc (bench ns).params.runCap ((bench ns).input (bench ns).csr.len.toNat)).length ≤ (bench ns).params.obufBytes := by
  decide +kernel

theorem witness_RleDecWritesDecoding :
    let s := bench [0x61, 0x61, 0x61, 0x61, 60]
    s.params.Legal ∧ s.csr.len.toNat ≤ s.params.ibufBytes ∧ (rleDec (s.input s.csr.len.toNat)).length = 64 ∧
      s.params.obufBytes = 64 := by decide +kernel

/-- RleSinitStartsStream: RLE_MAX = 0 and RLE_MAX = OBUF_BYTES. -/
theorem witness_RleSinitStartsStream : (bench []).csr.rleMax.toNat ≤ (bench []).params.obufBytes ∧
    (let s : State := { bench [] with csr := { (bench []).csr with rleMax := 64#32 } }
     s.csr.rleMax.toNat ≤ s.params.obufBytes) := by decide +kernel

/-- RleSpushRunsThePushLoop, RleSfinFlushesPendingRun: a stream with a pending run and its capacity used up. -/
theorem witness_RleSpushRunsThePushLoop :
    let s := runWord (streamOf 6 [0x61, 0x62, 0x63, 0x61, 0x61, 0x61, 0x61, 0x61]) 0x13
    s.params.Legal ∧ s.StreamLegal ∧ s.csr.status.rleActive = true ∧ s.csr.len.toNat ≤ s.params.ibufBytes ∧
      s.csr.rleSout.toNat + runCost s.csr.pendingCount.toNat = s.csr.rleCaplim.toNat := by decide +kernel

/-- PushLoopRound, one state for each clause, at the capacity and one past it. -/
theorem witness_PushLoopRound :
    (0 < 3 ∧ 3 < 255 ∧ 0 + 0 + runCost (3 + 1) ≤ 5) ∧ (0 < 3 ∧ 3 < 255 ∧ 4 < 0 + 0 + runCost (3 + 1)) ∧
    ((255 : Nat) ≤ 255 ∧ 0 + 0 + runCost 255 + 1 ≤ 6) ∧ (0x61#8 ≠ 0x62#8 ∧ 5 < 0 + 0 + runCost 255 + 1) ∧
    0 + 0 + runCost 0 + 1 ≤ 1 := by decide

theorem witness_BwtCsortWritesSortedBytes :
    let s := bench [0x62, 0x61, 0x6E, 0x61, 0x6E, 0x61]
    let t := { bench [] with hist := Memory.cells 0 (64#32 :: List.replicate 255 0#32) }
    (s.params.Legal ∧ s.csr.len.toNat ≤ s.params.ibufBytes ∧
      (histogram (s.input s.csr.len.toNat)).sum ≤ s.params.obufBytes) ∧
    t.params.Legal ∧ t.histCounts.sum = t.params.obufBytes := by decide +kernel

/-- BwtInvWritesBlockAndTables: PRIMARY at its last value, and LEN = 0 with any PRIMARY. -/
theorem witness_BwtInvWritesBlockAndTables :
    ∀ s ∈ [withPrimary (bench [0x6E, 0x6E, 0x62, 0x61, 0x61, 0x61]) 5, withPrimary (bench []) 77],
      s.params.Legal ∧ s.csr.len.toNat ≤ s.params.ibufBytes ∧
      (0 < s.csr.len.toNat → s.csr.primary.toNat < s.csr.len.toNat) ∧ s.csr.len.toNat ≤ s.params.obufBytes := by
  decide +kernel

theorem witness_MtfOneSymbolCommands : (bench []).tblE.toList.Nodup := identity_nodup

/-- LenRangeErrors: LEN = IBUF_BYTES + 1, without and with an active stream. -/
theorem witness_LenRangeErrors :
    (bench []).params.ibufBytes < (bench (List.replicate 65 0)).csr.len.toNat ∧
    Instr.bwtCsort true ∈ [Instr.rleEnc, .rleDec, .bwtHist, .bwtCsort true, .bwtInv, .mtfEnc false, .mtfEnc true,
      .mtfDec false, .mtfDec true] ∧
    (streamOf 16 (List.replicate 65 0)).csr.status.rleActive = true ∧
    (streamOf 16 (List.replicate 65 0)).params.ibufBytes < (streamOf 16 (List.replicate 65 0)).csr.len.toNat := by
  decide +kernel

theorem witness_StreamErrors : (bench []).csr.status.rleActive = false ∧
    (let s : State := { bench [] with csr := { (bench []).csr with rleMax := 65#32 } }
     s.params.obufBytes < s.csr.rleMax.toNat) := by decide +kernel

/-- PrimaryRangeErrors: PRIMARY = LEN, also where the output would not fit. -/
theorem witness_PrimaryRangeErrors : ∀ s ∈ [withPrimary (bench [1, 2]) 2, withPrimary (benchCap 1 [1, 2]) 2],
    s.csr.len.toNat ≤ s.params.ibufBytes ∧ 0 < s.csr.len.toNat ∧ s.csr.len.toNat ≤ s.csr.primary.toNat := by
  decide +kernel

/-- OutOverflowErrors: one byte too many, for each clause; for BWT.CSORT with H = 0 also LEN > IBUF_BYTES. -/
theorem witness_OutOverflowErrors :
    let s := withPrimary (benchCap 4 [1, 2, 3, 4, 5]) 4
    let t := { bench (List.replicate 65 0) with hist := Memory.cells 0 (65#32 :: List.replicate 255 0#32) }
    (s.csr.len.toNat ≤ s.params.ibufBytes ∧ s.params.obufBytes < s.csr.len.toNat ∧
      s.csr.primary.toNat < s.csr.len.toNat) ∧
    s.params.obufBytes < (histogram (s.input s.csr.len.toNat)).sum ∧
    (t.params.ibufBytes < t.csr.len.toNat ∧ t.params.obufBytes < t.histCounts.sum) ∧
    s.params.obufBytes < (rleEnc s.params.runCap (s.input s.csr.len.toNat)).length ∧
    s.params.obufBytes < (rleDec (s.input s.csr.len.toNat)).length := by decide +kernel

/-- RunUnitShape: r = 0, 3, 4 and 259 (R120). -/
theorem witness_RunUnitShape : (encodeRun 0x61#8 0, encodeRun 0x61#8 3, encodeRun 0x61#8 4, encodeRun 0x61#8 259) =
    ([], bytes [0x61, 0x61, 0x61], bytes [0x61, 0x61, 0x61, 0x61, 0], bytes [0x61, 0x61, 0x61, 0x61, 0xFF]) := by decide

/-- RunLenIsTheLargestRun: a run cut by the cap 4, one that ends at another byte, one that ends with the sequence. -/
theorem witness_RunLenIsTheLargestRun : runLen 4 (List.replicate 6 0x61#8) = 4 ∧
    runLen 259 (bytes [0x61, 0x61, 0x62]) = 2 ∧ runLen 259 ((bytes [0x62, 0x61]).drop 1) = 1 ∧
    1 < (bytes [0x62, 0x61]).length := by decide

/-- RleEncodeRounds, RleRoundTrip, RleSizeBounds: the caps 4 and 259. -/
theorem witness_RleRoundTrip : rleEnc 4 (List.replicate 6 0x61#8) = bytes [0x61, 0x61, 0x61, 0x61, 0, 0x61, 0x61] ∧
    rleDec (bytes [0x61, 0x61, 0x61, 0x61, 0, 0x61, 0x61]) = List.replicate 6 0x61#8 ∧
    rleEnc 259 (bytes [0x61, 0x62]) = bytes [0x61, 0x62] := by decide

/-- RleDecodeRounds: a first byte, two and three equal bytes before a different one, and fewer than four bytes. -/
theorem witness_RleDecodeRounds : (bytes [1, 2, 3]).length < 4 ∧ 2#8 ≠ 1#8 ∧
    rleDec (bytes [1, 1, 2, 1]) = bytes [1, 1, 2, 1] := by decide

/-- StreamEqualsOneShot: a stream that has consumed "abcaaa", with host loads between its commands. -/
theorem witness_StreamEqualsOneShot : ∃ s : State, StreamRun s (bytes [0x61, 0x62, 0x63, 0x61, 0x61, 0x61]) := by
  let s0 : State := { bench [] with csr := { (bench []).csr with rleMax := 6#32 } }
  let s1 := nextOr s0 (exec .rleSinit s0)
  let s2 : State := { s1 with
    ibuf := Memory.cells 0 (bytes [0x61, 0x62, 0x63, 0x61, 0x61, 0x61, 0x61, 0x61])
    csr := { s1.csr with len := 8#32 } }
  let s3 := nextOr s2 (exec .rleSpush s2)
  have h1 : StreamRun s1 [] := .start s0 s1 (by decide +kernel) (by decide +kernel) rfl
  have h2 : StreamRun s2 [] := .load s1 s2 [] h1 ⟨rfl, ⟨rfl, rfl, rfl, rfl, rfl⟩, fun _ _ => rfl⟩
  have h3 := StreamRun.push s2 s3 [] h2 (by decide +kernel) rfl
  have e : [] ++ (s2.input s2.csr.len.toNat).take s3.csr.consumed.toNat =
      bytes [0x61, 0x62, 0x63, 0x61, 0x61, 0x61] := by decide +kernel
  exact ⟨s3, e ▸ h3⟩

/-- ShortcutCountsEarlierOccurrences, WalkStaysInTheColumn: the last row of "nnbaaa". -/
theorem witness_WalkStaysInTheColumn : (bytes [0x6E, 0x6E, 0x62, 0x61, 0x61, 0x61])[5]? = some 0x61#8 ∧
    shortcut (bytes [0x6E, 0x6E, 0x62, 0x61, 0x61, 0x61]) = [0, 1, 0, 0, 1, 2] := by decide

/-- InverseBwtRestoresTheBlock: "banana" with p = 3, its column in IBUF; T-I1. -/
theorem witness_InverseBwtRestoresTheBlock :
    let s := withPrimary (bench [0x6E, 0x6E, 0x62, 0x61, 0x61, 0x61]) 3
    let x := bytes [0x62, 0x61, 0x6E, 0x61, 0x6E, 0x61]
    let col := bytes [0x6E, 0x6E, 0x62, 0x61, 0x61, 0x61]
    IsBwt x col s.csr.primary.toNat ∧ s.params.Legal ∧ s.csr.len.toNat = x.length ∧ x.length ≤ s.params.ibufBytes ∧
      x.length ≤ s.params.obufBytes ∧ s.input s.csr.len.toNat = col := by
  refine ⟨.inr ⟨[5, 3, 1, 0, 4, 2], by decide, by decide, by decide, by decide⟩, ?_⟩
  decide +kernel

/-- The empty block, and R150's example: "abab" gives "bbaa", and the ties leave p = 0 and p = 1 open. -/
theorem witness_IsBwt : IsBwt [] [] 0 ∧ IsBwt (bytes [0x61, 0x62, 0x61, 0x62]) (bytes [0x62, 0x62, 0x61, 0x61]) 0 ∧
    IsBwt (bytes [0x61, 0x62, 0x61, 0x62]) (bytes [0x62, 0x62, 0x61, 0x61]) 1 :=
  ⟨.inl (by decide), .inr ⟨[0, 2, 1, 3], by decide, by decide, by decide, by decide⟩,
    .inr ⟨[2, 0, 1, 3], by decide, by decide, by decide, by decide⟩⟩

theorem witness_MtfStepsMoveToFront : State.reset.tblE.toList.Nodup ∧
    (1 ≤ 255 ∧ 255 ≤ (0xFF#8).toNat) ∧ (0#8).toNat < 1 := ⟨identity_nodup, by decide⟩

theorem witness_MtfRoundTrip :
    let s := bench [0x62, 0x61, 0x6E, 0x61]
    let t := nextOr s (exec (.mtfEnc true) s)
    let u := { t with ibuf := t.obuf }
    s.params.Legal ∧ s.csr.len.toNat ≤ s.params.ibufBytes ∧ s.csr.len.toNat ≤ s.params.obufBytes ∧
      exec (.mtfEnc true) s = .next t ∧ u.params = s.params ∧ u.csr.len = s.csr.len ∧
      ∀ i, i < s.csr.len.toNat → u.ibuf.read? i = t.obuf.read? i :=
  ⟨by decide +kernel, by decide +kernel, by decide +kernel, rfl, rfl, rfl, fun _ _ => rfl⟩

/-- EveryStepKeepsTheStateLegal: a legal state in which a command completes, and one in which the host steps. -/
theorem witness_EveryStepKeepsTheStateLegal :
    let s := (withPrimary (bench [0x6E, 0x6E, 0x62, 0x61, 0x61, 0x61]) 3).acceptNow 0x22#32
    let t := hosted 2 [.wr .csr 0x014#34 .word 9#32]
    (s.Inv ∧ step s = .next (nextOr s (step s))) ∧ t.Inv ∧ step t = .next (nextOr t (step t)) :=
  ⟨⟨⟨by decide +kernel, by decide +kernel, ⟨identity_nodup, identity_nodup⟩, by decide +kernel, by decide +kernel⟩,
      next_of_answers _ (by decide +kernel)⟩,
    ⟨by decide +kernel, by decide +kernel, ⟨identity_nodup, identity_nodup⟩, by decide +kernel, by decide +kernel⟩,
    next_of_answers _ (by decide +kernel)⟩

end Sys2Proof.Tests
end

section
/-! The state after power-on reset is legal: the opaque parameters lie in the ranges of R4, and a BTE of any legal
parameters is legal at power-on. What the registers alone decide is stated for every state whose CSRs are at their
reset values, as a soft reset leaves them too. -/

namespace Sys2Proof.Machine

open Sys2Proof

/-- The bounds of the opaque constants are the ranges of R4. -/
theorem Params.ofConfig_legal : Params.ofConfig.Legal := by
  have hi := Config.ibufBelow.isLt
  have ho := Config.obufBelow.isLt
  have hr := Config.runCapBelow.isLt
  simp only [Params.Legal, Params.ofConfig, Config.ibufBytes, Config.obufBytes, Config.runCap, wordMax]
  omega

/-- Reset registers hold no active stream, and no run is pending (10_state R46). -/
theorem State.streamLegal_of_csr_reset {s : State} (h : s.csr = Csr.reset) : s.StreamLegal := by
  simp [State.StreamLegal, h, Csr.reset, Status.reset]

/-- Reset registers hold no command in flight, no completion and an OUT_LEN of 0 (10_state R24, R28–R31). -/
theorem State.flagsLegal_of_csr_reset {s : State} (h : s.csr = Csr.reset) : s.FlagsLegal := by
  simp [State.FlagsLegal, h, Csr.reset, Status.reset]

/-- Power-on leaves every store wholly unspecified (R210). -/
theorem State.resetWith_storesLegal (p : Params) : (State.resetWith p).StoresLegal :=
  ⟨Memory.wf_nil _, Memory.wf_nil _, Memory.wf_nil _, Memory.wf_nil _, Memory.wf_nil _⟩

/-- Power-on sets both MTF tables to the identity (R210). -/
theorem State.resetWith_tablesLegal (p : Params) : (State.resetWith p).TablesLegal :=
  ⟨identity_nodup, identity_nodup⟩

theorem State.resetWith_inv {p : Params} (hp : p.Legal) : (State.resetWith p).Inv :=
  ⟨hp, State.resetWith_storesLegal p, State.resetWith_tablesLegal p,
    State.streamLegal_of_csr_reset rfl, State.flagsLegal_of_csr_reset rfl⟩

/-- Settles O59: the parameters of the hardware at hand are legal, and power-on from legal parameters is legal. -/
theorem powerOnStateIsLegal : Obligations.PowerOnStateIsLegal :=
  State.resetWith_inv Params.ofConfig_legal

end Sys2Proof.Machine
end

section
/-! What a completion step can do, said once: `exec_cases` splits every command into a precise error, the one
imprecise error of 60_exceptions R185, and its success. -/

namespace Sys2Proof.Machine

open Sys2Proof

/-- The input block lies in IBUF (60_exceptions R182). -/
abbrev State.InputFits (s : State) : Prop := s.len ≤ s.params.ibufBytes

/-- RLE.ENC or RLE.DEC with the result `out`, completed from `s` without an error, leaves `t` (41_rle R125, R127). -/
abbrev RleSucceeds (s t : State) (out : List Byte) : Prop :=
  s.InputFits ∧ out.length ≤ s.params.obufBytes ∧ t = (s.writeObuf 0 out).complete out.length s.len

/-- BWT.CSORT of the counts `ns`, completed from `s` without an error, leaves `t` (42_bwt_inverse R144). -/
abbrev CsortSucceeds (s t : State) (ns : List Nat) (consumed : Nat) : Prop :=
  ns.sum ≤ s.params.obufBytes ∧
    t = ((s.writeHistogram ns).writeObuf 0 (sortedColumn ns)).complete ns.sum consumed

/-- A command that writes as many bytes as it reads, completed from `s` without an error, leaves the data `u` holds
(42_bwt_inverse R146, 43_mtf R162, R163). -/
abbrev BlockSucceeds (s t u : State) : Prop :=
  s.InputFits ∧ s.len ≤ s.params.obufBytes ∧ t = u.complete s.len s.len

/-- What BWT.INV writes (42_bwt_inverse R147). -/
abbrev State.bwtInvData (s : State) : State :=
  ((s.writeHistogram (histogram (s.input s.len))).writeShort (shortcut (s.input s.len))).writeObuf 0
    (inverseBwt (s.input s.len) s.csr.primary.toNat)

/-- A batch of MTF steps over the input block from the table a batch starts from (43_mtf R162, R163). -/
abbrev State.mtfResult (s : State) (f : MtfTable → Byte → Byte × MtfTable) (i : Bool) (t : MtfTable) :
    List Byte × MtfTable :=
  mtfBatch f (batchTable i t) (s.input s.len)

/-- A command, completed from `s` without an error, leaves `t` (40_control R110, 41_rle R125–R130, 42_bwt_inverse
R143–R147, 43_mtf R161–R165): the checks it passed, and what it wrote. -/
def CommandSucceeds (s t : State) : Instr → Prop
  | .nop => t = s.complete 0 0
  | .rleEnc => RleSucceeds s t (rleEnc s.params.runCap (s.input s.len))
  | .rleDec => RleSucceeds s t (rleDec (s.input s.len))
  | .rleSinit => s.csr.rleMax.toNat ≤ s.params.obufBytes ∧
      t = ((s.setStream true 0#8 0 0).setCaplim s.csr.rleMax).complete 0 0
  | .rleSpush => s.csr.status.rleActive = true ∧ s.InputFits ∧ t = s.finishPush s.pushResult
  | .rleSfin => s.csr.status.rleActive = true ∧ ∃ sout, sout = s.csr.rleSout.toNat + s.pendingRun.length ∧
      t = ((s.writeObuf s.csr.rleSout.toNat s.pendingRun).setStream false 0#8 0 sout).complete sout 0
  | .bwtHist => s.InputFits ∧ t = (s.writeHistogram (histogram (s.input s.len))).complete 0 s.len
  | .bwtCsort true => s.InputFits ∧ CsortSucceeds s t (histogram (s.input s.len)) s.len
  | .bwtCsort false => CsortSucceeds s t s.histCounts 0
  | .bwtInv => ¬ (0 < s.len ∧ s.len ≤ s.csr.primary.toNat) ∧ BlockSucceeds s t s.bwtInvData
  | .mtfInit e d => t = ((s.setTblE (if e then MtfTable.identity else s.tblE)).setTblD
      (if d then MtfTable.identity else s.tblD)).complete 0 0
  | .mtfEnc i => BlockSucceeds s t ((s.setTblE (s.mtfResult mtfEncSym i s.tblE).2).writeObuf 0
      (s.mtfResult mtfEncSym i s.tblE).1)
  | .mtfDec i => BlockSucceeds s t ((s.setTblD (s.mtfResult mtfDecSym i s.tblD).2).writeObuf 0
      (s.mtfResult mtfDecSym i s.tblD).1)
  | .mtfEnc1 sym => t = ((s.setTblE (mtfEncSym s.tblE sym).2).setMtfSym (mtfEncSym s.tblE sym).1).complete 0 0
  | .mtfDec1 sym => t = ((s.setTblD (mtfDecSym s.tblD sym).2).setMtfSym (mtfDecSym s.tblD sym).1).complete 0 0

/-- The ends of a completion step: a precise error, the overflow that forgets OBUF (only RLE.ENC and RLE.DEC, R185),
or the success of the command. -/
def CompletionCases (i : Instr) (s t : State) : Prop :=
  (∃ e v, t = s.errorCompletion e v) ∨
    ((i = .rleEnc ∨ i = .rleDec) ∧ ∃ v, t = s.forgetObuf.errorCompletion .outOverflow v) ∨ CommandSucceeds s t i

theorem State.inputFits_of_not_lenOutOfRange {s : State} (h : ¬ s.lenOutOfRange = true) : s.InputFits := by
  simpa [State.lenOutOfRange] using h

theorem State.le_obufBytes_of_not_outputTooLong {s : State} {n : Nat} (h : ¬ s.outputTooLong n = true) :
    n ≤ s.params.obufBytes := by
  simpa [State.outputTooLong] using h

/-- The common body of RLE.ENC and RLE.DEC (41_rle R125, R127). -/
theorem rle_cases (s : State) (out : List Byte) {t : State}
    (h : t = if s.lenOutOfRange then s.errorCompletion .lenRange s.csr.len else s.finishRle out) :
    (∃ e v, t = s.errorCompletion e v) ∨ (∃ v, t = s.forgetObuf.errorCompletion .outOverflow v) ∨
      RleSucceeds s t out := by
  unfold State.finishRle at h
  split_ifs at h with hl ho
  · exact .inl ⟨_, _, h⟩
  · exact .inr (.inl ⟨_, h⟩)
  · exact .inr (.inr ⟨State.inputFits_of_not_lenOutOfRange hl, State.le_obufBytes_of_not_outputTooLong ho, h⟩)

/-- The common checks of the commands that write LEN bytes (60_exceptions R183). -/
theorem block_cases {s t u : State}
    (h : t = if s.lenOutOfRange then s.errorCompletion .lenRange s.csr.len
      else if s.outputTooLong s.len then s.errorCompletion .outOverflow (overflowInfo s.len)
      else u.complete s.len s.len) :
    (∃ e v, t = s.errorCompletion e v) ∨ BlockSucceeds s t u := by
  split_ifs at h with hl ho
  · exact .inl ⟨_, _, h⟩
  · exact .inl ⟨_, _, h⟩
  · exact .inr ⟨State.inputFits_of_not_lenOutOfRange hl, State.le_obufBytes_of_not_outputTooLong ho, h⟩

theorem finishCsort_cases (s : State) (ns : List Nat) (consumed : Nat) :
    (∃ e v, s.finishCsort ns consumed = s.errorCompletion e v) ∨
      CsortSucceeds s (s.finishCsort ns consumed) ns consumed := by
  unfold State.finishCsort
  split_ifs with h
  · exact .inl ⟨_, _, rfl⟩
  · exact .inr ⟨State.le_obufBytes_of_not_outputTooLong h, rfl⟩

theorem execRleEnc_cases {s t : State} (h : execRleEnc s = .next t) : CompletionCases .rleEnc s t := by
  cases h
  obtain he | ho | hs := rle_cases s (rleEnc s.params.runCap (s.input s.len)) rfl
  · exact .inl he
  · exact .inr (.inl ⟨.inl rfl, ho⟩)
  · exact .inr (.inr hs)

theorem execRleDec_cases {s t : State} (h : execRleDec s = .next t) : CompletionCases .rleDec s t := by
  cases h
  obtain he | ho | hs := rle_cases s (rleDec (s.input s.len)) rfl
  · exact .inl he
  · exact .inr (.inl ⟨.inr rfl, ho⟩)
  · exact .inr (.inr hs)

theorem execRleSinit_cases {s t : State} (h : execRleSinit s = .next t) : CompletionCases .rleSinit s t := by
  cases h
  split_ifs with hm
  · exact .inl ⟨_, _, rfl⟩
  · exact .inr (.inr ⟨State.le_obufBytes_of_not_outputTooLong hm, rfl⟩)

theorem execRleSpush_cases {s t : State} (h : execRleSpush s = .next t) : CompletionCases .rleSpush s t := by
  cases h
  split_ifs with ha hl
  · exact .inl ⟨_, _, rfl⟩
  · exact .inl ⟨_, _, rfl⟩
  · exact .inr (.inr ⟨by simpa using ha, State.inputFits_of_not_lenOutOfRange hl, rfl⟩)

theorem execRleSfin_cases {s t : State} (h : execRleSfin s = .next t) : CompletionCases .rleSfin s t := by
  cases h
  split_ifs with ha
  · exact .inl ⟨_, _, rfl⟩
  · exact .inr (.inr ⟨by simpa using ha, _, rfl, rfl⟩)

theorem execBwtHist_cases {s t : State} (h : execBwtHist s = .next t) : CompletionCases .bwtHist s t := by
  cases h
  split_ifs with hl
  · exact .inl ⟨_, _, rfl⟩
  · exact .inr (.inr ⟨State.inputFits_of_not_lenOutOfRange hl, rfl⟩)

theorem execBwtCsort_cases {s t : State} {h : Bool} (he : execBwtCsort h s = .next t) :
    CompletionCases (.bwtCsort h) s t := by
  cases he
  split_ifs with hh hl
  · exact .inl ⟨_, _, rfl⟩
  · subst hh
    obtain h | h := finishCsort_cases s (histogram (s.input s.len)) s.len
    · exact .inl h
    · exact .inr (.inr ⟨State.inputFits_of_not_lenOutOfRange hl, h⟩)
  · rw [Bool.not_eq_true] at hh
    subst hh
    exact (finishCsort_cases s s.histCounts 0).imp_right .inr

theorem execBwtInv_cases {s t : State} (h : execBwtInv s = .next t) : CompletionCases .bwtInv s t := by
  cases h
  split_ifs with hl hp ho
  · exact .inl ⟨_, _, rfl⟩
  · exact .inl ⟨_, _, rfl⟩
  · exact .inl ⟨_, _, rfl⟩
  · exact .inr (.inr ⟨hp, State.inputFits_of_not_lenOutOfRange hl, State.le_obufBytes_of_not_outputTooLong ho,
      rfl⟩)

theorem execMtfEnc_cases {s t : State} {i : Bool} (h : execMtfEnc i s = .next t) :
    CompletionCases (.mtfEnc i) s t := by
  cases h
  exact (block_cases rfl).imp_right .inr

theorem execMtfDec_cases {s t : State} {i : Bool} (h : execMtfDec i s = .next t) :
    CompletionCases (.mtfDec i) s t := by
  cases h
  exact (block_cases rfl).imp_right .inr

/-- What the completion step of any command can do (40_control R112). -/
theorem exec_cases {i : Instr} {s t : State} (h : exec i s = .next t) : CompletionCases i s t := by
  cases i with
  | rleEnc => exact execRleEnc_cases h
  | rleDec => exact execRleDec_cases h
  | rleSinit => exact execRleSinit_cases h
  | rleSpush => exact execRleSpush_cases h
  | rleSfin => exact execRleSfin_cases h
  | bwtHist => exact execBwtHist_cases h
  | bwtCsort _ => exact execBwtCsort_cases h
  | bwtInv => exact execBwtInv_cases h
  | mtfEnc _ => exact execMtfEnc_cases h
  | mtfDec _ => exact execMtfDec_cases h
  | nop | mtfInit _ _ | mtfEnc1 _ | mtfDec1 _ =>
    cases h
    exact .inr (.inr rfl)

end Sys2Proof.Machine
end

section
/-! Every step keeps a legal state legal. A completion step sets the completion registers afresh, so a command has to
keep only `State.DataLegal`; the ends of a completion step then give the rest of `State.Inv`. -/

namespace Sys2Proof.Machine

open Sys2Proof

/-- `State.Inv` but for the completion registers. -/
abbrev State.DataLegal (s : State) : Prop := s.params.Legal ∧ s.StoresLegal ∧ s.TablesLegal ∧ s.StreamLegal

theorem State.Inv.dataLegal {s : State} (h : s.Inv) : s.DataLegal := by
  obtain ⟨hp, hm, ht, hs, -⟩ := h
  exact ⟨hp, hm, ht, hs⟩

/-! ## What the operations keep -/

theorem State.DataLegal.errorCompletion {s : State} (h : s.DataLegal) (e : ErrCode) (v : Word) :
    (s.errorCompletion e v).Inv := by
  obtain ⟨hp, hm, ht, hs⟩ := h
  exact ⟨hp, hm, ht, hs, by simp [State.FlagsLegal, e.toByte_le, e.toByte_ne_zero]⟩

theorem State.DataLegal.complete {s : State} (h : s.DataLegal) {o : Nat} (ho : o ≤ s.params.obufBytes) (c : Nat) :
    (s.complete o c).Inv := by
  obtain ⟨hp, hm, ht, hs⟩ := h
  have hmod : o % 4294967296 ≤ s.params.obufBytes := (Nat.mod_le _ _).trans ho
  exact ⟨hp, hm, ht, hs, by simp [State.FlagsLegal, hmod]⟩

theorem State.DataLegal.writeObuf {s : State} (h : s.DataLegal) {a : Nat} {bs : List Byte}
    (hb : a + bs.length ≤ s.params.obufBytes) : (s.writeObuf a bs).DataLegal := by
  obtain ⟨hp, ⟨hi, ho, hm⟩, ht, hs⟩ := h
  exact ⟨hp, ⟨hi, Memory.wf_write ho hb, hm⟩, ht, hs⟩

theorem State.DataLegal.forgetObuf {s : State} (h : s.DataLegal) : s.forgetObuf.DataLegal := by
  obtain ⟨hp, ⟨hi, -, hm⟩, ht, hs⟩ := h
  exact ⟨hp, ⟨hi, Memory.wf_nil _, hm⟩, ht, hs⟩

theorem State.DataLegal.writeHistogram {s : State} (h : s.DataLegal) {ns : List Nat} (hn : ns.length = 256) :
    (s.writeHistogram ns).DataLegal := by
  obtain ⟨hp, ⟨hi, ho, hh, hf, hm⟩, ht, hs⟩ := h
  exact ⟨hp, ⟨hi, ho, Memory.wf_write hh (by simp [hn]), Memory.wf_write hf (by simp [hn]), hm⟩, ht, hs⟩

theorem State.DataLegal.writeShort {s : State} (h : s.DataLegal) {sc : List Nat}
    (hn : sc.length ≤ s.params.ibufBytes) : (s.writeShort sc).DataLegal := by
  obtain ⟨hp, ⟨hi, ho, hh, hf, hm⟩, ht, hs⟩ := h
  exact ⟨hp, ⟨hi, ho, hh, hf, Memory.wf_write hm (by simpa using hn)⟩, ht, hs⟩

theorem State.DataLegal.setTblE {s : State} (h : s.DataLegal) {t : MtfTable} (hn : t.toList.Nodup) :
    (s.setTblE t).DataLegal := by
  obtain ⟨hp, hm, ⟨-, hd⟩, hs⟩ := h
  exact ⟨hp, hm, ⟨hn, hd⟩, hs⟩

theorem State.DataLegal.setTblD {s : State} (h : s.DataLegal) {t : MtfTable} (hn : t.toList.Nodup) :
    (s.setTblD t).DataLegal := by
  obtain ⟨hp, hm, ⟨he, -⟩, hs⟩ := h
  exact ⟨hp, hm, ⟨he, hn⟩, hs⟩

theorem State.DataLegal.setMtfSym {s : State} (h : s.DataLegal) (v : Byte) : (s.setMtfSym v).DataLegal := h

/-- Legal data keeps when its stream is replaced by one that is legal in itself. -/
theorem State.DataLegal.setStream {s : State} (h : s.DataLegal) {a : Bool} {pb : Byte} {pc sout : Nat}
    (hs : (s.setStream a pb pc sout).StreamLegal) : (s.setStream a pb pc sout).DataLegal := by
  obtain ⟨hp, hm, ht, -⟩ := h
  exact ⟨hp, hm, ht, hs⟩

theorem State.streamLegal_iff_of_active {s : State} (ha : s.csr.status.rleActive = true) :
    s.StreamLegal ↔ s.csr.rleSout.toNat + runCost s.csr.pendingCount.toNat ≤ s.csr.rleCaplim.toNat ∧
      s.csr.rleCaplim.toNat ≤ s.params.obufBytes ∧ s.csr.pendingCount.toNat ≤ s.params.runCap := by
  rw [State.StreamLegal, if_pos ha]

/-- An ended stream leaves no run pending (41_rle R130). -/
theorem State.streamLegal_setStream_ended (s : State) (sout : Nat) : (s.setStream false 0#8 0 sout).StreamLegal := by
  simp [State.StreamLegal]

/-- The capacity bound of an active stream, in the numbers the command computes (41_rle R129): both fit their
registers. -/
theorem State.streamLegal_setStream_active {s : State} (hp : s.params.Legal) {pb : Byte} {pc sout : Nat}
    (hm : s.csr.rleCaplim.toNat ≤ s.params.obufBytes) (hc : pc ≤ s.params.runCap)
    (hs : sout + runCost pc ≤ s.csr.rleCaplim.toNat) : (s.setStream true pb pc sout).StreamLegal := by
  obtain ⟨-, -, -, -, -, hcap⟩ := hp
  have hpc : pc % 512 = pc := Nat.mod_eq_of_lt (by omega)
  have hlt := s.csr.rleCaplim.isLt
  have hso : sout % 4294967296 = sout := Nat.mod_eq_of_lt (by omega)
  simp [State.StreamLegal, hpc, hso, hm, hc, hs]

/-! ## The MTF tables -/

/-- Moving an entry to the front is a permutation (43_mtf R166). -/
theorem moveToFront_nodup {t : MtfTable} (h : t.toList.Nodup) (j : Byte) : (t.moveToFront j).toList.Nodup := by
  have hj : j.toNat < t.toList.length := by simpa using j.isLt
  have hperm : (t.moveToFront j).toList.Perm t.toList := by
    simpa [MtfTable.moveToFront] using List.getElem_cons_eraseIdx_perm hj
  exact hperm.nodup_iff.2 h

theorem mtfEncSym_nodup {t : MtfTable} (h : t.toList.Nodup) (b : Byte) : (mtfEncSym t b).2.toList.Nodup :=
  moveToFront_nodup h _

theorem mtfDecSym_nodup {t : MtfTable} (h : t.toList.Nodup) (j : Byte) : (mtfDecSym t j).2.toList.Nodup :=
  moveToFront_nodup h j

/-- A batch keeps what each of its steps keeps. -/
theorem mtfBatch_nodup {f : MtfTable → Byte → Byte × MtfTable}
    (hf : ∀ {t : MtfTable}, t.toList.Nodup → ∀ x, (f t x).2.toList.Nodup) {t : MtfTable} (h : t.toList.Nodup)
    (xs : List Byte) : (mtfBatch f t xs).2.toList.Nodup := by
  induction xs generalizing t with
  | nil => exact h
  | cons x xs ih => exact ih (hf h x)

/-- A table that a flag resets to the identity (43_mtf R161, R162, R163). -/
theorem ite_identity_nodup {t : MtfTable} (h : t.toList.Nodup) (b : Bool) :
    (if b then MtfTable.identity else t).toList.Nodup := by
  cases b with
  | true => exact identity_nodup
  | false => exact h

/-! ## The commands -/

theorem histogram_length (d : List Byte) : (histogram d).length = 256 := by simp [histogram]

theorem histCounts_length (s : State) : s.histCounts.length = 256 := by simp [State.histCounts]

theorem RleSucceeds.inv {s t : State} {out : List Byte} (h : s.DataLegal) (hs : RleSucceeds s t out) : t.Inv := by
  obtain ⟨-, hout, rfl⟩ := hs
  exact (h.writeObuf (by simpa using hout)).complete hout _

theorem CsortSucceeds.inv {s t : State} {ns : List Nat} {c : Nat} (h : s.DataLegal) (hn : ns.length = 256)
    (hs : CsortSucceeds s t ns c) : t.Inv := by
  obtain ⟨hsum, rfl⟩ := hs
  exact ((h.writeHistogram hn).writeObuf (by simpa using hsum)).complete hsum _

/-- RLE.SINIT (41_rle R128): the empty stream fits any capacity that fits OBUF. -/
theorem rleSinit_inv {s : State} (h : s.DataLegal) (hm : s.csr.rleMax.toNat ≤ s.params.obufBytes) :
    (((s.setStream true 0#8 0 0).setCaplim s.csr.rleMax).complete 0 0).Inv := by
  obtain ⟨hp, hst, ht, -⟩ := h
  have hs : ((s.setStream true 0#8 0 0).setCaplim s.csr.rleMax).StreamLegal := by
    simp [State.StreamLegal, runCost, hm]
  have hd : ((s.setStream true 0#8 0 0).setCaplim s.csr.rleMax).DataLegal := ⟨hp, hst, ht, hs⟩
  exact hd.complete (Nat.zero_le _) 0

/-- The push loop of an active stream keeps within its capacity and the run cap (41_rle R129). -/
theorem pushResult_fits {s : State} (hp : s.params.Legal) (ha : s.csr.status.rleActive = true) (hs : s.StreamLegal) :
    s.pushResult.pc ≤ s.params.runCap ∧
      s.csr.rleSout.toNat + s.pushResult.flushed.length + runCost s.pushResult.pc ≤ s.csr.rleCaplim.toNat := by
  obtain ⟨hfit, -, hpc⟩ := (State.streamLegal_iff_of_active ha).1 hs
  obtain ⟨-, -, -, -, hcap, -⟩ := hp
  obtain ⟨hk, hm, -⟩ := pushLoop_keeps (show 1 ≤ s.params.runCap by omega)
    (p := ⟨s.csr.pendingByte, s.csr.pendingCount.toNat, [], 0⟩) (bs := s.input s.len) hpc hfit
  exact ⟨hk, hm⟩

/-- RLE.SPUSH (41_rle R129): what is flushed lies below the capacity, and the pending run still fits after it. -/
theorem finishPush_inv {s : State} (h : s.DataLegal) (ha : s.csr.status.rleActive = true) :
    (s.finishPush s.pushResult).Inv := by
  obtain ⟨hp, -, -, hs⟩ := id h
  obtain ⟨-, hcap, -⟩ := (State.streamLegal_iff_of_active ha).1 hs
  obtain ⟨hpc, hm⟩ := pushResult_fits hp ha hs
  have hb : s.csr.rleSout.toNat + s.pushResult.flushed.length ≤ s.params.obufBytes := by omega
  exact ((h.writeObuf hb).setStream (State.streamLegal_setStream_active hp hcap hpc hm)).complete hb _

/-- RLE.SFIN (41_rle R130): the pending run costs what the capacity keeps free for it. -/
theorem rleSfin_inv {s : State} (h : s.DataLegal) (ha : s.csr.status.rleActive = true) :
    (((s.writeObuf s.csr.rleSout.toNat s.pendingRun).setStream false 0#8 0
      (s.csr.rleSout.toNat + s.pendingRun.length)).complete (s.csr.rleSout.toNat + s.pendingRun.length) 0).Inv := by
  obtain ⟨-, -, -, hs⟩ := id h
  obtain ⟨hfit, hcap, -⟩ := (State.streamLegal_iff_of_active ha).1 hs
  have hb : s.csr.rleSout.toNat + s.pendingRun.length ≤ s.params.obufBytes := by
    rw [State.pendingRun, encodeRun_length]
    omega
  exact ((h.writeObuf hb).setStream (State.streamLegal_setStream_ended _ _)).complete hb 0

/-- BWT.INV (42_bwt_inverse R146): the block and its shortcuts are as long as the input. -/
theorem bwtInv_inv {s t : State} (h : s.DataLegal) (hs : BlockSucceeds s t s.bwtInvData) : t.Inv := by
  obtain ⟨hi, ho, rfl⟩ := hs
  have hshort := (h.writeHistogram (histogram_length (s.input s.len))).writeShort
    (sc := shortcut (s.input s.len)) (by simpa using hi)
  exact (hshort.writeObuf (by simpa using ho)).complete ho _

/-- A command that succeeds from legal data leaves a legal state. -/
theorem CommandSucceeds.inv {i : Instr} {s t : State} (h : s.DataLegal) (hs : CommandSucceeds s t i) : t.Inv := by
  obtain ⟨-, -, ⟨htE, htD⟩, -⟩ := id h
  cases i with
  | nop =>
    subst hs
    exact h.complete (Nat.zero_le _) 0
  | rleEnc | rleDec => exact RleSucceeds.inv h hs
  | rleSinit =>
    obtain ⟨hm, rfl⟩ := hs
    exact rleSinit_inv h hm
  | rleSpush =>
    obtain ⟨ha, -, rfl⟩ := hs
    exact finishPush_inv h ha
  | rleSfin =>
    obtain ⟨ha, _, rfl, rfl⟩ := hs
    exact rleSfin_inv h ha
  | bwtHist =>
    obtain ⟨-, rfl⟩ := hs
    exact (h.writeHistogram (histogram_length _)).complete (Nat.zero_le _) _
  | bwtCsort b =>
    cases b with
    | true => exact CsortSucceeds.inv h (histogram_length _) hs.2
    | false => exact CsortSucceeds.inv h (histCounts_length s) hs
  | bwtInv => exact bwtInv_inv h hs.2
  | mtfInit e d =>
    subst hs
    exact ((h.setTblE (ite_identity_nodup htE e)).setTblD (ite_identity_nodup htD d)).complete (Nat.zero_le _) 0
  | mtfEnc b =>
    obtain ⟨-, ho, rfl⟩ := hs
    have htbl := mtfBatch_nodup mtfEncSym_nodup (ite_identity_nodup htE b) (s.input s.len)
    exact ((h.setTblE htbl).writeObuf (by simpa using ho)).complete ho _
  | mtfDec b =>
    obtain ⟨-, ho, rfl⟩ := hs
    have htbl := mtfBatch_nodup mtfDecSym_nodup (ite_identity_nodup htD b) (s.input s.len)
    exact ((h.setTblD htbl).writeObuf (by simpa using ho)).complete ho _
  | mtfEnc1 sym =>
    subst hs
    exact ((h.setTblE (mtfEncSym_nodup htE sym)).setMtfSym _).complete (Nat.zero_le _) 0
  | mtfDec1 sym =>
    subst hs
    exact ((h.setTblD (mtfDecSym_nodup htD sym)).setMtfSym _).complete (Nat.zero_le _) 0

theorem exec_inv {i : Instr} {s t : State} (h : s.DataLegal) (he : exec i s = .next t) : t.Inv := by
  obtain ⟨e, v, rfl⟩ | ⟨-, v, rfl⟩ | hs := exec_cases he
  · exact h.errorCompletion e v
  · exact h.forgetObuf.errorCompletion _ v
  · exact hs.inv h

theorem engineStep_inv {s t : State} (h : s.DataLegal) (he : engineStep s = .next t) : t.Inv := by
  unfold engineStep at he
  split at he
  · cases he
    exact h.errorCompletion _ _
  · exact exec_inv h he

/-! ## The host -/

theorem accept_inv {s : State} (h : s.Inv) (w : Word) : (s.accept w).Inv := by
  obtain ⟨hp, hm, ht, hs, -, -, hcode, hout, -⟩ := h
  exact ⟨hp, hm, ht, hs, by simp [State.FlagsLegal, hcode, hout]⟩

theorem softReset_inv {s : State} (h : s.Inv) : s.softReset.Inv := by
  obtain ⟨hp, ⟨hi, ho, hh, hf, hm⟩, -⟩ := h
  refine ⟨hp, ?_, ⟨identity_nodup, identity_nodup⟩, State.streamLegal_of_csr_reset rfl,
    State.flagsLegal_of_csr_reset rfl⟩
  cases hb : s.csr.status.busy <;>
    simp [State.StoresLegal, State.softReset, hb, Memory.unspecified, hi, ho, hh, hf, hm]

/-- A host write keeps a legal state legal: it stores inside a buffer or HIST, accepts a command, resets, or sets bits
and operand registers, of which the invariant does not speak. -/
theorem hostWrite_inv {s : State} (h : s.Inv) (sp : Space) (off : Offset) (width : Nat) (v : Word) :
    (hostWrite s sp off width v).2.Inv := by
  obtain ⟨hp, ⟨hi, ho, hh, hf, hm⟩, hrest⟩ := id h
  obtain he | ⟨-, he | he⟩ | ⟨-, he⟩ | he | he | he | he | ⟨-, he | he | he | ⟨b, hb, he⟩ | ⟨a, bs, hb, he⟩ |
    ⟨a, bs, hb, he⟩⟩ := hostWrite_cases s sp off width v <;> rw [he]
  · exact h
  · exact h
  · exact h
  · exact accept_inv h v
  · exact softReset_inv h
  · exact h
  · exact h
  · exact h
  · exact h
  · exact h
  · exact h
  · exact ⟨hp, ⟨hi, ho, Memory.wf_write hh hb, hf, hm⟩, hrest⟩
  · exact ⟨hp, ⟨Memory.wf_write hi hb, ho, hh, hf, hm⟩, hrest⟩
  · exact ⟨hp, ⟨hi, Memory.wf_write ho hb, hh, hf, hm⟩, hrest⟩

theorem runHostOp_inv {s t : State} {o : HostOp} (h : s.Inv) (ho : s.runHostOp o = .next t) : t.Inv := by
  obtain ⟨sp, off, width, v, u, hu, hp, hc, hh, hf, he, hd, hi, hob, hs, -⟩ := runHostOp_cases ho
  have huInv : u.Inv := by
    obtain rfl | rfl := hu
    · exact h
    · exact hostWrite_inv h sp off width v
  simpa only [State.Inv, State.StoresLegal, State.TablesLegal, State.StreamLegal, State.FlagsLegal, hp, hc, hh, hf, he,
    hd, hi, hob, hs] using huInv

theorem hostStep_inv {s t : State} (h : s.Inv) (hs : hostStep s = .next t) : t.Inv := by
  unfold hostStep at hs
  split at hs
  · have hcount : s.countHostStep.Inv := h
    exact runHostOp_inv hcount hs
  · cases hs
    exact h

/-- Settles O60: the engine's step by the cases of a completion step, the host's by those of a host write. -/
theorem everyStepKeepsTheStateLegal : Obligations.EveryStepKeepsTheStateLegal := by
  intro s t h hs
  unfold step at hs
  split at hs
  · exact engineStep_inv h.dataLegal hs
  · exact hostStep_inv h hs

end Sys2Proof.Machine
end

section
/-! Which commands write which state: an error writes none of it, the overflow of RLE.ENC and RLE.DEC only OBUF, and a
success what its form in `CommandSucceeds` names. -/

namespace Sys2Proof.Machine

open Sys2Proof

/-- Settles O26: the cases of a completion step, and in the success case those of the commands. -/
theorem onlyTheNamedCommandsWrite : Obligations.OnlyTheNamedCommandsWrite := by
  intro i s t h
  obtain ⟨e, v, rfl⟩ | ⟨rfl | rfl, v, rfl⟩ | hs := exec_cases h
  · simp [SameStream]
  · simp [SameStream]
  · simp [SameStream]
  · cases i with
    | nop | mtfInit _ _ | mtfEnc1 _ | mtfDec1 _ =>
      subst hs
      simp [SameStream]
    | rleEnc | rleDec =>
      obtain ⟨-, -, rfl⟩ := hs
      simp [SameStream]
    | rleSinit =>
      obtain ⟨-, rfl⟩ := hs
      simp
    | rleSpush =>
      obtain ⟨-, -, rfl⟩ := hs
      simp [State.finishPush]
    | rleSfin =>
      obtain ⟨-, _, -, rfl⟩ := hs
      simp
    | bwtHist =>
      obtain ⟨-, rfl⟩ := hs
      simp [SameStream]
    | bwtCsort b =>
      cases b with
      | true =>
        obtain ⟨-, -, rfl⟩ := hs
        simp [SameStream]
      | false =>
        obtain ⟨-, rfl⟩ := hs
        simp [SameStream]
    | bwtInv =>
      obtain ⟨-, -, -, rfl⟩ := hs
      simp [SameStream]
    | mtfEnc _ | mtfDec _ =>
      obtain ⟨-, -, rfl⟩ := hs
      simp [SameStream]

end Sys2Proof.Machine
end

section
/-! The host's CSR accesses at a mapped offset, and what the CSR map names there: the read and the write go to one
location. -/

namespace Sys2Proof.Machine

open Sys2Proof

/-- A word access at a mapped CSR offset gets no bus error (20_memory R65, R67). -/
theorem accessAllowed_csr (p : Params) {off : Offset} {loc : CsrLoc} (write : Bool)
    (hl : csrLoc? off.toNat = some loc) (ha : off.toNat % 4 = 0) : accessAllowed p .csr off 4 write = true := by
  have hm := (csrLoc?_isSome off.toNat).1 (by simp [hl])
  exact (accessAllowed_iff_conditions _ _ _ _ _).2
    ⟨rfl, ha, show off.toNat + 4 ≤ 4096 by omega, fun _ => hm, by simp⟩

theorem hostRead_csr (s : State) {off : Offset} {loc : CsrLoc} (hl : csrLoc? off.toNat = some loc)
    (ha : off.toNat % 4 = 0) : hostRead s .csr off 4 = .ok (s.csrRead loc) := by
  simp [hostRead, accessAllowed_csr s.params false hl ha, State.spaceRead, hl]

theorem hostWrite_csr (s : State) {off : Offset} {loc : CsrLoc} (hl : csrLoc? off.toNat = some loc)
    (ha : off.toNat % 4 = 0) (v : Word) : hostWrite s .csr off 4 v = (.ok 0#32, s.csrWrite v loc) := by
  simp [hostWrite, accessAllowed_csr s.params true hl ha, State.spaceWrite, hl]

theorem State.whileIdle_of_idle {s : State} (h : s.csr.status.busy = false) (f : State) : s.whileIdle f = f := by
  simp [State.whileIdle, h]

/-! ## The CSR map over the tables (10_state §2) -/

theorem csrLoc?_hist {b : Nat} (hb : b < 256) : csrLoc? (0x400 + 4 * b) = some (.hist b) := by
  unfold csrLoc?
  rw [if_neg (by omega), if_pos (by omega)]
  congr 2
  omega

theorem csrLoc?_first {b : Nat} (hb : b < 256) : csrLoc? (0x800 + 4 * b) = some (.first b) := by
  unfold csrLoc?
  rw [if_neg (by omega), if_neg (by omega), if_pos (by omega)]
  congr 2
  omega

theorem csrLoc?_tblE {w : Nat} (hw : w < 64) : csrLoc? (0xC00 + 4 * w) = some (.tblE w) := by
  unfold csrLoc?
  rw [if_neg (by omega), if_neg (by omega), if_neg (by omega), if_pos (by omega)]
  congr 2
  omega

theorem csrLoc?_tblD {w : Nat} (hw : w < 64) : csrLoc? (0xD00 + 4 * w) = some (.tblD w) := by
  unfold csrLoc?
  rw [if_neg (by omega), if_neg (by omega), if_neg (by omega), if_neg (by omega), if_pos (by omega)]
  congr 2
  omega

/-- An offset of the CSR space as a number. -/
theorem csrOffset_toNat {a n : Nat} (h : a + 4 * n < 4096) : (BitVec.ofNat 34 (a + 4 * n)).toNat = a + 4 * n := by
  rw [BitVec.toNat_ofNat, Nat.mod_eq_of_lt (by omega)]

/-- A read of entry `n` of the table at `a`. -/
theorem hostRead_csr_entry (s : State) {a n : Nat} {loc : CsrLoc} (ha : a % 4 = 0) (hn : a + 4 * n < 4096)
    (hl : csrLoc? (a + 4 * n) = some loc) :
    hostRead s .csr (BitVec.ofNat 34 (a + 4 * n)) 4 = .ok (s.csrRead loc) :=
  hostRead_csr s (by rw [csrOffset_toNat hn, hl]) (by rw [csrOffset_toNat hn]; omega)

/-- A write of entry `n` of the table at `a`. -/
theorem hostWrite_csr_entry (s : State) {a n : Nat} {loc : CsrLoc} (ha : a % 4 = 0) (hn : a + 4 * n < 4096)
    (hl : csrLoc? (a + 4 * n) = some loc) (v : Word) :
    hostWrite s .csr (BitVec.ofNat 34 (a + 4 * n)) 4 v = (.ok 0#32, s.csrWrite v loc) :=
  hostWrite_csr s (by rw [csrOffset_toNat hn, hl]) (by rw [csrOffset_toNat hn]; omega) v

/-! ## Writes while idle -/

/-- The locations no host write changes (10_state §2, R22). -/
def CsrLoc.readOnly : CsrLoc → Bool
  | .ctrl | .status | .cmd | .len | .primary | .rleMax | .irqEn | .irqStatus | .hist _ => false
  | _ => true

theorem csrWrite_readOnly {s : State} (h : s.csr.status.busy = false) (v : Word) {loc : CsrLoc}
    (hl : loc.readOnly = true) : s.csrWrite v loc = s := by
  cases loc with
  | ctrl | status | cmd | len | primary | rleMax | irqEn | irqStatus | hist _ => cases hl
  | _ => exact State.whileIdle_of_idle h s

/-- FIRST and the two table windows, from 0x800 up to 0xDFC, are read-only (10_state R40, R42). -/
theorem csrLoc?_from_first_readOnly {k : Nat} (hk : k < 384) :
    ∃ loc, csrLoc? (0x800 + 4 * k) = some loc ∧ loc.readOnly = true := by
  obtain h | h | h : k < 256 ∨ (256 ≤ k ∧ k < 320) ∨ (320 ≤ k ∧ k < 384) := by omega
  · exact ⟨_, csrLoc?_first h, rfl⟩
  · refine ⟨.tblE (k - 256), ?_, rfl⟩
    rw [show 0x800 + 4 * k = 0xC00 + 4 * (k - 256) by omega, csrLoc?_tblE (by omega)]
  · refine ⟨.tblD (k - 320), ?_, rfl⟩
    rw [show 0x800 + 4 * k = 0xD00 + 4 * (k - 320) by omega, csrLoc?_tblD (by omega)]

/-- Every read-only register of 10_state §2 is mapped. -/
theorem csrLoc?_register_readOnly : ∀ off ∈ [0x000#34, 0x004#34, 0x01C#34, 0x020#34, 0x024#34, 0x028#34, 0x030#34,
    0x034#34, 0x038#34, 0x03C#34, 0x048#34, 0x04C#34, 0x050#34],
    off.toNat % 4 = 0 ∧ ∃ loc, csrLoc? off.toNat = some loc ∧ loc.readOnly = true := by
  simp [csrLoc?, csrRegisters, CsrLoc.readOnly]

/-- Settles O15: each offset names its location, and an idle write to it takes effect or is ignored. -/
theorem idleRegisterWrites : Obligations.IdleRegisterWrites := by
  intro s v h
  have hreg {off : Offset} {loc : CsrLoc} {t : State} (hl : csrLoc? off.toNat = some loc) (ha : off.toNat % 4 = 0)
      (hw : s.csrWrite v loc = s.whileIdle t) : hostWrite s .csr off 4 v = (.ok 0#32, t) := by
    rw [hostWrite_csr s hl ha, hw, State.whileIdle_of_idle h]
  refine ⟨hreg (loc := .len) rfl rfl rfl, hreg (loc := .primary) rfl rfl rfl, hreg (loc := .rleMax) rfl rfl rfl,
    fun b hb => ⟨s.hist.write b [v], ?_, fun i => ?_⟩, fun off hoff => ?_, fun k hk => ?_⟩
  · rw [hostWrite_csr_entry s rfl (by omega) (csrLoc?_hist hb), State.csrWrite, State.whileIdle_of_idle h]
  · rw [Memory.read?_write]
    by_cases hi : i = b
    · simp [hi]
    · rw [if_neg (by simp only [List.length_singleton]; omega), if_neg hi]
  · obtain ⟨ha, loc, hl, hro⟩ := csrLoc?_register_readOnly off hoff
    rw [hostWrite_csr s hl ha, csrWrite_readOnly h v hro]
  · obtain ⟨loc, hl, hro⟩ := csrLoc?_from_first_readOnly hk
    rw [hostWrite_csr_entry s rfl (by omega) hl, csrWrite_readOnly h v hro]

end Sys2Proof.Machine
end

section
/-! What the registers read: fields in their places and reserved bits 0 (10_state §2). -/

namespace Sys2Proof.Machine

open Sys2Proof

/-- STATUS reads its six flags at bits 0 to 5, and 0 above them (10_state R24, R22). -/
theorem Status.toWord_fields (f : Status) : f.toWord.toNat < 64 ∧ f.toWord.getLsbD 0 = f.busy ∧
    f.toWord.getLsbD 1 = f.done ∧ f.toWord.getLsbD 2 = f.err ∧ f.toWord.getLsbD 3 = f.cmdOvr ∧
    f.toWord.getLsbD 4 = f.wrBusy ∧ f.toWord.getLsbD 5 = f.rleActive := by
  constructor
  · rw [Status.toWord, BitVec.toNat_setWidth_of_le (by decide)]
    exact BitVec.isLt _
  · simp only [Status.toWord, BitVec.getLsbD_setWidth, BitVec.getLsbD_append]
    simp

/-- IRQ_EN and IRQ_STATUS read DONE at bit 0 and ERR at bit 1, and 0 above them (10_state R37, R38, R22). -/
theorem IrqBits.toWord_fields (q : IrqBits) :
    q.toWord.toNat < 4 ∧ q.toWord.getLsbD 0 = q.done ∧ q.toWord.getLsbD 1 = q.err := by
  constructor
  · rw [IrqBits.toWord, BitVec.toNat_setWidth_of_le (by decide)]
    exact BitVec.isLt _
  · simp only [IrqBits.toWord, BitVec.getLsbD_setWidth, BitVec.getLsbD_append]
    simp

/-- RLE_STATE reads PENDING_BYTE in bits [7:0] and PENDING_COUNT in bits [16:8] (10_state R33). -/
theorem rleState_word (pb : Byte) (pc : BitVec 9) :
    (pc ++ pb).setWidth 32 = BitVec.ofNat 32 (pb.toNat + 256 * pc.toNat) := by
  rw [← BitVec.ofNat_toNat, BitVec.toNat_append, ← Nat.shiftLeft_add_eq_or_of_lt pb.isLt, Nat.shiftLeft_eq]
  congr 1
  omega

/-- Settles O19: each offset names its register. -/
theorem registersReadTheirValues : Obligations.RegistersReadTheirValues := by
  intro s
  have hread {off : Offset} {loc : CsrLoc} {w : Word} (hl : csrLoc? off.toNat = some loc) (ha : off.toNat % 4 = 0)
      (hw : s.csrRead loc = w) : hostRead s .csr off 4 = .ok w := by
    rw [hostRead_csr s hl ha, hw]
  exact ⟨hread (loc := .id) rfl rfl rfl, hread (loc := .version) rfl rfl rfl, hread (loc := .ctrl) rfl rfl rfl,
    ⟨_, hread (loc := .status) rfl rfl rfl, s.csr.status.toWord_fields⟩,
    hread (loc := .cmd) rfl rfl rfl, hread (loc := .len) rfl rfl rfl, hread (loc := .primary) rfl rfl rfl,
    hread (loc := .outLen) rfl rfl rfl, hread (loc := .consumed) rfl rfl rfl,
    hread (loc := .errcode) rfl rfl (BitVec.ofNat_toNat ..).symm, hread (loc := .errinfo) rfl rfl rfl,
    hread (loc := .rleMax) rfl rfl rfl, hread (loc := .rleState) rfl rfl (rleState_word _ _),
    hread (loc := .rleSout) rfl rfl rfl, hread (loc := .rleCaplim) rfl rfl rfl,
    hread (loc := .mtfSym) rfl rfl (BitVec.ofNat_toNat ..).symm,
    ⟨_, hread (loc := .irqEn) rfl rfl rfl, s.csr.irqEn.toWord_fields⟩,
    ⟨_, hread (loc := .irqStatus) rfl rfl rfl, s.csr.irqStatus.toWord_fields⟩,
    hread (loc := .capIbuf) rfl rfl rfl, hread (loc := .capObuf) rfl rfl rfl, hread (loc := .runCap) rfl rfl rfl⟩

end Sys2Proof.Machine
end

section
/-! What the host reads of the tables and the buffers: the little-endian value of bytes (20_memory R64), and the one
location behind each offset. -/

namespace Sys2Proof.Machine

open Sys2Proof

/-! ## Little-endian values -/

/-- Bit `i` of the joined bytes is bit `i % 8` of byte `i / 8`. -/
theorem joinBytes_getLsbD (bs : List Byte) (i : Nat) :
    (joinBytes bs).getLsbD i = (decide (i < 32) && (bs.getD (i / 8) 0#8).getLsbD (i % 8)) := by
  induction bs generalizing i with
  | nil => simp [joinBytes]
  | cons b bs ih =>
    have hcons : (joinBytes (b :: bs)).getLsbD i = (decide (i < 32) &&
        (b.getLsbD i || (!decide (i < 8) && (joinBytes bs).getLsbD (i - 8)))) := by
      rw [joinBytes, BitVec.getLsbD_or, BitVec.getLsbD_setWidth, BitVec.getLsbD_shiftLeft]
      cases decide (i < 32) <;> rfl
    rw [hcons, ih]
    by_cases hi : i < 8
    · have hlow : i / 8 = 0 ∧ i % 8 = i := by omega
      simp [hi, hlow]
    · have hhigh : i / 8 = (i - 8) / 8 + 1 ∧ i % 8 = (i - 8) % 8 := by omega
      have hb : b.getLsbD i = false := BitVec.getLsbD_of_ge b i (by omega)
      by_cases h32 : i < 32
      · simp [hi, hhigh, hb, h32, show i - 8 < 32 by omega]
      · simp [h32]

/-- Nothing stands above the joined bytes. -/
theorem joinBytes_lt (bs : List Byte) : (joinBytes bs).toNat < 2 ^ (8 * bs.length) := by
  refine Nat.lt_pow_two_of_testBit _ fun i hi => ?_
  have hout : bs.getD (i / 8) 0#8 = 0#8 := List.getD_eq_default _ _ (by omega)
  rw [BitVec.testBit_toNat, joinBytes_getLsbD, hout]
  simp

/-- Byte `k` of a joined word is bits [8k+7:8k]. -/
theorem joinBytes_extract {bs : List Byte} {k : Nat} {b : Byte} (hk : k < 4) (hb : bs[k]? = some b) :
    (joinBytes bs).extractLsb' (8 * k) 8 = b := by
  refine BitVec.eq_of_getLsbD_eq fun j hj => ?_
  have hidx : (8 * k + j) / 8 = k ∧ (8 * k + j) % 8 = j ∧ 8 * k + j < 32 := by omega
  rw [BitVec.getLsbD_extractLsb', joinBytes_getLsbD, List.getD_eq_getElem?_getD, hidx.1, hidx.2.1, hb]
  simp only [hj, hidx.2.2, decide_true, Bool.true_and, Option.getD_some]

/-- Entry 4w+k of a table stands in bits [8k+7:8k] of word `w` of its window (10_state R40). -/
theorem windowWord_extract (t : MtfTable) {w k : Nat} (hw : w < 64) (hk : k < 4) :
    t[4 * w + k]? = some ((windowWord t w).extractLsb' (8 * k) 8) := by
  have ht : t[4 * w + k]? = some t[4 * w + k] := Vector.getElem?_eq_getElem (by omega)
  rw [ht, windowWord, joinBytes_extract hk (b := t[4 * w + k])]
  simp [hk, ht]

/-! ## Buffers and stores -/

/-- The value of `width` bytes of a byte store from `a` on. -/
def readBytes (epoch : Nat) (st : StoreName) (m : Memory 8) (a width : Nat) : Word :=
  joinBytes ((List.range width).map fun k => readByte epoch st m (a + k))

theorem readBytes_lt (epoch : Nat) (st : StoreName) (m : Memory 8) (a width : Nat) :
    (readBytes epoch st m a width).toNat < 2 ^ (8 * width) := by
  simpa [readBytes] using joinBytes_lt ((List.range width).map fun k => readByte epoch st m (a + k))

theorem readBytes_extract {epoch : Nat} {st : StoreName} {m : Memory 8} {a width k : Nat} {b : Byte}
    (hw : width ≤ 4) (hk : k < width) (hb : m.read? (a + k) = some b) :
    (readBytes epoch st m a width).extractLsb' (8 * k) 8 = b :=
  joinBytes_extract (by omega) (by simp [hk, readByte, hb])

/-- A specified entry reads as its content (00_scope R7). -/
theorem readEntry_of_specified {epoch : Nat} {st : StoreName} {m : Memory 32} {i : Nat} {v : Word}
    (h : m.read? i = some v) : readEntry epoch st m i = v := by
  simp [readEntry, h]

theorem hostRead_ibuf {s : State} {off : Offset} {width : Nat} (h : LegalAccess s.params .ibuf off width false) :
    hostRead s .ibuf off width = .ok (readBytes s.epoch .ibuf s.ibuf off.toNat width) :=
  if_pos ((accessAllowed_iff _ _ _ _ _).2 h)

theorem hostRead_obuf_of_idle {s : State} {off : Offset} {width : Nat} (hb : s.csr.status.busy = false)
    (h : LegalAccess s.params .obuf off width false) :
    hostRead s .obuf off width = .ok (readBytes s.epoch .obuf s.obuf off.toNat width) := by
  rw [hostRead, if_pos ((accessAllowed_iff _ _ _ _ _).2 h), State.spaceRead, hb]
  rfl

/-- SHORT[i] stands at 4·i of WORK (10_state R43), within the 34 bits of an offset. -/
theorem hostRead_work_of_idle {s : State} {i : Nat} (hb : s.csr.status.busy = false) (hi : i < s.params.ibufBytes)
    (hp : s.params.ibufBytes ≤ wordMax) :
    hostRead s .work (BitVec.ofNat 34 (4 * i)) 4 = .ok (readEntry s.epoch .short s.short i) := by
  have hoff : (BitVec.ofNat 34 (4 * i)).toNat = 4 * i := by
    rw [wordMax] at hp
    rw [BitVec.toNat_ofNat, Nat.mod_eq_of_lt (by omega)]
  have hl : LegalAccess s.params .work (BitVec.ofNat 34 (4 * i)) 4 false := by
    refine ⟨rfl, rfl, ?_, ?_⟩ <;> rw [hoff] <;> omega
  rw [hostRead, if_pos ((accessAllowed_iff _ _ _ _ _).2 hl)]
  simp [State.spaceRead, hb, hoff]

/-- A legal access to a buffer is at most a word wide (20_memory R65). -/
theorem LegalAccess.width_le {p : Params} {sp : Space} {off : Offset} {width : Nat}
    (hsp : sp = .ibuf ∨ sp = .obuf) (h : LegalAccess p sp off width false) : width ≤ 4 := by
  obtain rfl | rfl := hsp
  all_goals
    obtain ⟨hw, -⟩ := h
    omega

/-- Settles O20: each read goes to its bytes or its entry. -/
theorem idleTableReads : Obligations.IdleTableReads := by
  refine ⟨fun s off width h => ?_, fun s hb => ⟨fun off width h => ?_, ?_, ?_, ?_, ?_⟩⟩
  · exact ⟨_, hostRead_ibuf h, readBytes_lt .., fun k b hk hr => readBytes_extract (h.width_le (.inl rfl)) hk hr⟩
  · exact ⟨_, hostRead_obuf_of_idle hb h, readBytes_lt .., fun k b hk hr =>
      readBytes_extract (h.width_le (.inr rfl)) hk hr⟩
  · intro b v hlt hr
    rw [hostRead_csr_entry s rfl (by omega) (csrLoc?_hist hlt)]
    simp [State.csrRead, hb, readEntry_of_specified hr]
  · intro b v hlt hr
    rw [hostRead_csr_entry s rfl (by omega) (csrLoc?_first hlt)]
    simp [State.csrRead, hb, readEntry_of_specified hr]
  · intro w k hw hk
    refine ⟨windowWord s.tblE w, windowWord s.tblD w, ?_, ?_, windowWord_extract _ hw hk, windowWord_extract _ hw hk⟩
    · rw [hostRead_csr_entry s rfl (by omega) (csrLoc?_tblE hw)]
      simp [State.csrRead, hb]
    · rw [hostRead_csr_entry s rfl (by omega) (csrLoc?_tblD hw)]
      simp [State.csrRead, hb]
  · intro i v hi hp hr
    rw [hostRead_work_of_idle hb hi hp, readEntry_of_specified hr]

end Sys2Proof.Machine
end

section
/-! Host accesses and their responses (20_memory R65–R67, R69): a legal access gets OK, an illegal one a bus error, which
in a run is a fault of the host program. -/

namespace Sys2Proof.Machine

open Sys2Proof

theorem hostRead_of_legal {s : State} {sp : Space} {off : Offset} {width : Nat}
    (h : LegalAccess s.params sp off width false) :
    hostRead s sp off width = .ok (s.spaceRead sp off width) :=
  if_pos ((accessAllowed_iff _ _ _ _ _).2 h)

theorem hostRead_of_illegal {s : State} {sp : Space} {off : Offset} {width : Nat}
    (h : ¬ LegalAccess s.params sp off width false) : hostRead s sp off width = .busError :=
  if_neg (mt (accessAllowed_iff _ _ _ _ _).1 h)

theorem hostWrite_of_legal {s : State} {sp : Space} {off : Offset} {width : Nat}
    (h : LegalAccess s.params sp off width true) (v : Word) :
    hostWrite s sp off width v = (.ok 0#32, s.spaceWrite sp off width v) :=
  if_pos ((accessAllowed_iff _ _ _ _ _).2 h)

theorem hostWrite_of_illegal {s : State} {sp : Space} {off : Offset} {width : Nat}
    (h : ¬ LegalAccess s.params sp off width true) (v : Word) : hostWrite s sp off width v = (.busError, s) :=
  if_neg (mt (accessAllowed_iff _ _ _ _ _).1 h)

/-- Settles O11: the response is decided by the legality of the access alone. -/
theorem busErrorsExactlyOnIllegalAccesses : Obligations.BusErrorsExactlyOnIllegalAccesses := by
  intro s sp off width v
  refine ⟨fun h => ⟨_, hostRead_of_legal h⟩, fun h => ?_, fun h => ⟨_, hostWrite_of_legal h v⟩,
    fun h => hostWrite_of_illegal h v⟩
  rw [hostRead_of_illegal h]
  exact ⟨rfl, rfl⟩

theorem hostStep_of_hostOp {s : State} {o : HostOp} (h : s.hostOp? = some o) :
    hostStep s = s.countHostStep.runHostOp o := by
  rw [hostStep, h]

/-- Where the engine is not due, the step is the host's next operation. -/
theorem step_of_hostOp {s : State} {o : HostOp} (hd : s.csr.status.busy = false ∨ 0 < s.delay)
    (h : s.hostOp? = some o) : step s = s.countHostStep.runHostOp o := by
  rw [step_of_not_due (hd.imp_right fun hd => ⟨hd, by simp [h]⟩), hostStep_of_hostOp h]

theorem runHostOp_wr_of_illegal {s : State} {sp : Space} {off : Offset} {w : Width} (v : Word)
    (h : ¬ LegalAccess s.params sp off w.bytes true) :
    s.runHostOp (.wr sp off w v) = .fault (.busError sp off w true) := by
  rw [State.runHostOp, hostWrite_of_illegal h]

theorem runHostOp_rd_of_illegal {s : State} {sp : Space} {off : Offset} {w : Width}
    (h : ¬ LegalAccess s.params sp off w.bytes false) :
    s.runHostOp (.rd sp off w) = .fault (.busError sp off w false) := by
  rw [State.runHostOp, hostRead_of_illegal h]

/-- Settles O12: the step is the host's, and its access gets a bus error. -/
theorem busErrorFaultsTheHostProgram : Obligations.BusErrorFaultsTheHostProgram := by
  intro s sp off w v hd
  refine ⟨fun hop hl => ?_, fun hop hl => ?_⟩
  · rw [step_of_hostOp hd hop]
    exact runHostOp_wr_of_illegal v hl
  · rw [step_of_hostOp hd hop]
    exact runHostOp_rd_of_illegal hl

end Sys2Proof.Machine
end

section
/-! Buffer writes (20_memory R64): the bytes a value is split into are the bytes it is joined from. -/

namespace Sys2Proof.Machine

open Sys2Proof

/-- Joining the `k` low bytes of a value gives its value modulo 2^(8k). -/
theorem joinBytes_splitBytes_toNat (v : Word) (k : Nat) :
    (joinBytes (splitBytes v k)).toNat = v.toNat % 2 ^ (8 * k) := by
  refine Nat.eq_of_testBit_eq fun i => ?_
  rw [BitVec.testBit_toNat, joinBytes_getLsbD, Nat.testBit_mod_two_pow, BitVec.testBit_toNat,
    List.getD_eq_getElem?_getD]
  by_cases hi : i < 8 * k
  · have hbit : 8 * (i / 8) + i % 8 = i ∧ i % 8 < 8 := by omega
    rw [splitBytes_getElem? v k (i / 8) (by omega), Option.getD_some, BitVec.getLsbD_extractLsb', hbit.1]
    by_cases h32 : i < 32
    · simp [hi, h32, hbit.2]
    · simp [h32, BitVec.getLsbD_of_ge v i (by omega)]
  · rw [List.getElem?_eq_none (by rw [splitBytes_length]; omega)]
    simp [hi]

/-- A write of the `width` low bytes of `v`, byte by byte. -/
theorem Memory.read?_write_splitBytes (m : Memory 8) (a width : Nat) (v : Word) (i : Nat) :
    (m.write a (splitBytes v width)).read? i =
      if a ≤ i ∧ i < a + width then some (v.extractLsb' (8 * (i - a)) 8) else m.read? i := by
  rw [Memory.read?_write, splitBytes_length]
  refine if_ctx_congr Iff.rfl (fun h => ?_) fun _ => rfl
  exact splitBytes_getElem? v width (i - a) (by omega)

/-- Reading back what was written gives the low bytes of the value. -/
theorem readBytes_write_splitBytes (epoch : Nat) (st : StoreName) (m : Memory 8) (a width : Nat) (v : Word) :
    (readBytes epoch st (m.write a (splitBytes v width)) a width).toNat = v.toNat % 2 ^ (8 * width) := by
  have hbytes : ((List.range width).map fun k => readByte epoch st (m.write a (splitBytes v width)) (a + k)) =
      splitBytes v width := by
    refine List.ext_getElem? fun k => ?_
    by_cases hk : k < width
    · rw [splitBytes_getElem? v width k hk]
      simp [hk, readByte, Memory.read?_write_splitBytes]
    · rw [List.getElem?_eq_none (by simpa using hk), List.getElem?_eq_none (by simpa using hk)]
  rw [readBytes, hbytes, joinBytes_splitBytes_toNat]

/-- Settles O14: the bytes stored are those of the value, and joined again they give it back. -/
theorem bufferWritesAreLittleEndian : Obligations.BufferWritesAreLittleEndian := by
  intro s off width v hb
  refine ⟨fun h => ⟨s.ibuf.write off.toNat (splitBytes v width), ?_, fun i => Memory.read?_write_splitBytes .., ?_⟩,
    fun h => ⟨s.obuf.write off.toNat (splitBytes v width), ?_, fun i => Memory.read?_write_splitBytes .., ?_⟩⟩
  · rw [hostWrite_of_legal h, State.spaceWrite, State.whileIdle_of_idle hb]
  · rw [hostRead_ibuf]
    · exact readBytes_write_splitBytes ..
    · exact h
  · rw [hostWrite_of_legal h, State.spaceWrite, State.whileIdle_of_idle hb]
  · rw [hostRead_obuf_of_idle]
    · exact readBytes_write_splitBytes ..
    · exact hb
    · exact h

end Sys2Proof.Machine
end

section
/-! What the host may do while BUSY (20_memory R70, R71, R75): its writes are dropped but for five registers, its reads
of OBUF, WORK and the tables are draws, and the operands of the command in flight stay as they are. -/

namespace Sys2Proof.Machine

open Sys2Proof

theorem State.whileIdle_of_busy {s : State} (h : s.csr.status.busy = true) (f : State) : s.whileIdle f = s.dropWrite :=
  if_pos h

/-! ## Writes while BUSY -/

/-- CTRL, STATUS, CMD, IRQ_EN and IRQ_STATUS: the locations R70 excepts. -/
def CsrLoc.writableWhileBusy : CsrLoc → Bool
  | .ctrl | .status | .cmd | .irqEn | .irqStatus => true
  | _ => false

theorem csrWrite_of_busy {s : State} (h : s.csr.status.busy = true) (v : Word) {loc : CsrLoc}
    (hl : loc.writableWhileBusy = false) : s.csrWrite v loc = s.dropWrite := by
  cases loc with
  | ctrl | status | cmd | irqEn | irqStatus => cases hl
  | _ => exact State.whileIdle_of_busy h _

/-- Where the five locations stand among the registers of 10_state §2. -/
theorem csrRegisters_writableWhileBusy : ∀ k < csrRegisters.length, ∀ loc ∈ csrRegisters[k]?,
    loc.writableWhileBusy = true → k = 2 ∨ k = 3 ∨ k = 4 ∨ k = 16 ∨ k = 17 := by
  decide

/-- The CSR map from 0x400 on: the four tables only. -/
theorem csrLoc?_of_table {n : Nat} {loc : CsrLoc} (h : csrLoc? n = some loc) (hn : 0x400 ≤ n) :
    (∃ b, loc = .hist b) ∨ (∃ b, loc = .first b) ∨ (∃ w, loc = .tblE w) ∨ ∃ w, loc = .tblD w := by
  rw [csrLoc?, if_neg (by omega)] at h
  split_ifs at h <;> cases h <;> simp

/-- The CSR map below 0x400: the registers. -/
theorem csrLoc?_of_register {n : Nat} (hn : n < 0x400) : csrLoc? n = csrRegisters[n / 4]? :=
  if_pos hn

/-- A location that R70 excepts stands at one of the five offsets of `WritableWhileBusy`. -/
theorem WritableWhileBusy.of_loc {off : Offset} {loc : CsrLoc} (hl : csrLoc? off.toNat = some loc)
    (ha : off.toNat % 4 = 0) (hw : loc.writableWhileBusy = true) : WritableWhileBusy .csr off := by
  refine ⟨rfl, ?_⟩
  by_cases hn : 0x400 ≤ off.toNat
  · obtain ⟨_, rfl⟩ | ⟨_, rfl⟩ | ⟨_, rfl⟩ | ⟨_, rfl⟩ := csrLoc?_of_table hl hn <;> cases hw
  · rw [csrLoc?_of_register (by omega)] at hl
    have hk := csrRegisters_writableWhileBusy _ (List.getElem?_eq_some_iff.1 hl).1 loc hl hw
    bv_omega

/-- A legal CSR access is a word access at an offset that names a location. -/
theorem LegalAccess.csr_mapped {p : Params} {off : Offset} {width : Nat} {write : Bool}
    (h : LegalAccess p .csr off width write) :
    width = 4 ∧ off.toNat % 4 = 0 ∧ ∃ loc, csrLoc? off.toNat = some loc := by
  obtain ⟨hw, ha, hm⟩ := h
  exact ⟨hw, ha, Option.isSome_iff_exists.1 ((csrLoc?_isSome _).2 (by omega))⟩

/-- While BUSY every legal write outside the five exceptions is dropped (R70). -/
theorem hostWrite_of_busy {s : State} (hb : s.csr.status.busy = true) {sp : Space} {off : Offset} {width : Nat}
    (v : Word) (h : LegalAccess s.params sp off width true) (hx : ¬ WritableWhileBusy sp off) :
    hostWrite s sp off width v = (.ok 0#32, s.dropWrite) := by
  cases sp with
  | csr =>
    obtain ⟨rfl, ha, loc, hl⟩ := h.csr_mapped
    have hloc : loc.writableWhileBusy = false := Bool.eq_false_iff.2 fun hw => hx (.of_loc hl ha hw)
    rw [hostWrite_csr s hl ha, csrWrite_of_busy hb v hloc]
  | ibuf | obuf => rw [hostWrite_of_legal h, State.spaceWrite, State.whileIdle_of_busy hb]
  | work => cases h.1

/-- Settles O16: outside the five exceptions a write is dropped; at each of them the CSR map names the register, and the
write has its own effect. -/
theorem writesWhileBusyAreDropped : Obligations.WritesWhileBusyAreDropped := by
  refine ⟨fun s sp off width v hb h hx => hostWrite_of_busy hb v h hx, fun s v => ?_⟩
  refine ⟨hostWrite_csr s (loc := .status) rfl rfl v, hostWrite_csr s (loc := .irqEn) rfl rfl v,
    hostWrite_csr s (loc := .irqStatus) rfl rfl v, fun h0 => ?_, fun h1 => ⟨s.softReset, ?_, rfl⟩, fun hb => ?_⟩
  · rw [hostWrite_csr s (loc := .ctrl) rfl rfl v, State.csrWrite, h0]
    rfl
  · rw [hostWrite_csr s (loc := .ctrl) rfl rfl v, State.csrWrite, if_pos h1]
  · rw [hostWrite_csr s (loc := .cmd) rfl rfl v, State.csrWrite, if_pos hb]
    rfl

/-! ## Reads while BUSY -/

/-- While BUSY a read of HIST, FIRST, TBL_E or TBL_D is a draw of the step (R71). -/
theorem csrRead_table_of_busy {s t : State} (hs : s.csr.status.busy = true) (ht : t.csr.status.busy = true)
    (he : t.epoch = s.epoch) {n : Nat} {loc : CsrLoc} (hl : csrLoc? n = some loc) (hn : 0x400 ≤ n) :
    t.csrRead loc = s.csrRead loc := by
  obtain ⟨_, rfl⟩ | ⟨_, rfl⟩ | ⟨_, rfl⟩ | ⟨_, rfl⟩ := csrLoc?_of_table hl hn <;>
    rw [State.csrRead, State.csrRead, if_pos hs, if_pos ht, he]

/-- While BUSY a read of OBUF, WORK or a table is a draw of the step (R71). -/
theorem spaceRead_of_busy {s t : State} (hs : s.csr.status.busy = true) (ht : t.csr.status.busy = true)
    (he : t.epoch = s.epoch) {sp : Space} {off : Offset} (width : Nat)
    (hsp : sp = .obuf ∨ sp = .work ∨ (sp = .csr ∧ 0x400 ≤ off.toNat)) :
    t.spaceRead sp off width = s.spaceRead sp off width := by
  obtain rfl | rfl | ⟨rfl, hn⟩ := hsp
  · rw [State.spaceRead, State.spaceRead, if_pos hs, if_pos ht, he]
  · rw [State.spaceRead, State.spaceRead, if_pos hs, if_pos ht, he]
  · rw [State.spaceRead, State.spaceRead]
    cases hl : csrLoc? off.toNat with
    | none => rfl
    | some loc => exact csrRead_table_of_busy hs ht he hl hn

/-- Settles O18: the response depends on the parameters, and the data read is a draw of the step. -/
theorem busyReadsRevealNothing : Obligations.BusyReadsRevealNothing := by
  intro s t sp off width hs ht hp he hsp
  rw [hostRead, hostRead, hp, spaceRead_of_busy hs ht he width hsp]

/-! ## The operands of the command in flight -/

/-- What a completion step reads is unchanged (R75; 70_reset R222). -/
def SameCommandInput (s t : State) : Prop :=
  t.csr.cmd = s.csr.cmd ∧ t.csr.len = s.csr.len ∧ t.csr.primary = s.csr.primary ∧ t.csr.rleMax = s.csr.rleMax ∧
    t.ibuf = s.ibuf ∧ t.hist = s.hist ∧ t.tblE = s.tblE ∧ t.tblD = s.tblD ∧ SameStream s t ∧ t.params = s.params

theorem SameCommandInput.refl (s : State) : SameCommandInput s s :=
  ⟨rfl, rfl, rfl, rfl, rfl, rfl, rfl, rfl, ⟨rfl, rfl, rfl, rfl, rfl⟩, rfl⟩

/-- A host write that leaves BUSY set is no soft reset, and so keeps what the command in flight reads. -/
theorem hostWrite_sameCommandInput {s : State} (hb : s.csr.status.busy = true) {sp : Space} {off : Offset}
    {width : Nat} {v : Word} (ht : (hostWrite s sp off width v).2.csr.status.busy = true) :
    SameCommandInput s (hostWrite s sp off width v).2 := by
  have hcases := hostWrite_cases s sp off width v
  simp only [hb, Bool.true_eq_false, false_and, or_false, false_or, true_and] at hcases
  obtain he | (he | he) | he | he | he | he := hcases <;> rw [he] at ht ⊢
  · exact .refl s
  · exact .refl s
  · exact .refl s
  · cases ht
  · exact .refl s
  · exact .refl s
  · exact .refl s

theorem runHostOp_sameCommandInput {s t : State} {o : HostOp} (hb : s.csr.status.busy = true)
    (h : s.runHostOp o = .next t) (ht : t.csr.status.busy = true) : SameCommandInput s t := by
  obtain ⟨sp, off, width, v, u, hu, hp, hc, hh, -, he, hd, hi, -⟩ := runHostOp_cases h
  rw [hc] at ht
  have hsu : SameCommandInput s u := by
    obtain rfl | rfl := hu
    · exact .refl _
    · exact hostWrite_sameCommandInput hb ht
  simpa only [SameCommandInput, SameStream, hp, hc, hh, he, hd, hi] using hsu

/-- Settles O9: the step is the host's, and it keeps what the command in flight reads. -/
theorem operandsFixedWhileBusy : Obligations.OperandsFixedWhileBusy := by
  intro s t hb hd hop hstep ht
  obtain ⟨o, ho⟩ := Option.ne_none_iff_exists'.1 hop
  rw [step_of_hostOp (.inr hd) ho] at hstep
  exact runHostOp_sameCommandInput (s := s.countHostStep) hb hstep ht

end Sys2Proof.Machine
end

section
/-! The command word (30_encoding R90–R97, R102): the layout bit by bit, the rows of the opcode map, and the decoder's
three answers. Encoder and decoder agree because OPC and the fields, cut out of a word and put together again, are that
word under the mask of the format. -/

namespace Sys2Proof

/-! ## The layout of R90 -/

/-- A word put together from an opcode and fields: OPC | F0<<8 | F1<<9 | SYM<<16 (R102). -/
def wordOfFields (o : Byte) (x : CommandFields) : Word :=
  o.setWidth 32 ||| (flagWord x.f0 <<< 8) ||| (flagWord x.f1 <<< 9) ||| (x.sym.setWidth 32 <<< 16)

theorem encode_eq_wordOfFields (i : Instr) : encode i = wordOfFields (opcodeOf i) (fieldsOf i) := rfl

theorem flagWord_getLsbD (b : Bool) (j : Nat) : (flagWord b).getLsbD j = (decide (j = 0) && b) := by
  cases b <;> simp [flagWord, BitVec.getLsbD_one]

/-- The layout bit by bit: OPC in [7:0], F0 in [8], F1 in [9], SYM in [23:16], 0 elsewhere. -/
theorem wordOfFields_getLsbD (o : Byte) (x : CommandFields) (j : Nat) :
    (wordOfFields o x).getLsbD j =
      if j < 8 then o.getLsbD j else if j = 8 then x.f0 else if j = 9 then x.f1
      else if j < 16 then false else x.sym.getLsbD (j - 16) := by
  simp only [wordOfFields, BitVec.getLsbD_or, BitVec.getLsbD_shiftLeft, BitVec.getLsbD_setWidth, flagWord_getLsbD]
  by_cases h8 : j < 8
  · simp [h8, show j < 32 by omega, show j < 9 by omega, show j < 16 by omega]
  rw [BitVec.getLsbD_of_ge o j (by omega)]
  split_ifs with hf0 hf1 h16
  · simp [hf0]
  · simp [hf1]
  · simp [h16, show j - 8 ≠ 0 by omega, show j - 9 ≠ 0 by omega]
  · by_cases h32 : j < 32
    · simp [h16, h32, show j - 8 ≠ 0 by omega, show j - 9 ≠ 0 by omega, show j - 16 < 32 by omega]
    · simp [h32, BitVec.getLsbD_of_ge x.sym (j - 16) (by omega)]

theorem opc_wordOfFields (o : Byte) (x : CommandFields) : CommandWord.opc (wordOfFields o x) = o := by
  refine BitVec.eq_of_getLsbD_eq fun j hj => ?_
  simp [CommandWord.opc, wordOfFields_getLsbD, hj]

theorem commandFields_wordOfFields (o : Byte) (x : CommandFields) : commandFields (wordOfFields o x) = x := by
  have hsym : (wordOfFields o x).extractLsb' 16 8 = x.sym := by
    refine BitVec.eq_of_getLsbD_eq fun j hj => ?_
    simp [wordOfFields_getLsbD, hj, show ¬ 16 + j < 8 by omega, show 16 + j ≠ 8 by omega, show 16 + j ≠ 9 by omega]
  rw [commandFields, wordOfFields_getLsbD, wordOfFields_getLsbD, hsym]
  rfl

/-- A word under a mask that lets OPC through: OPC and the fields, each under the mask. -/
theorem and_wordOfFields (w : Word) (m : CommandFields) :
    w &&& wordOfFields (BitVec.allOnes 8) m =
      wordOfFields (CommandWord.opc w) ⟨(commandFields w).f0 && m.f0, (commandFields w).f1 && m.f1,
        (commandFields w).sym &&& m.sym⟩ := by
  refine BitVec.eq_of_getLsbD_eq fun j hj => ?_
  rw [BitVec.getLsbD_and, wordOfFields_getLsbD, wordOfFields_getLsbD]
  split_ifs with h8 hf0 hf1 h16
  · rw [BitVec.getLsbD_allOnes]
    simp [CommandWord.opc, h8]
  · simp [commandFields, hf0]
  · simp [commandFields, hf1]
  · simp
  · by_cases h24 : j < 24
    · simp [commandFields, show 16 + (j - 16) = j by omega, show j - 16 < 8 by omega]
    · simp [BitVec.getLsbD_of_ge _ (j - 16) (show 8 ≤ j - 16 by omega)]

/-! ## The formats of R91 -/

/-- The fields a format defines, the others 0. -/
def Format.keep : Format → CommandFields → CommandFields
  | .n, _ => ⟨false, false, 0#8⟩
  | .f, x => ⟨x.f0, false, 0#8⟩
  | .ed, x => ⟨x.f0, x.f1, 0#8⟩
  | .s, x => ⟨false, false, x.sym⟩

theorem Format.keep_keep (fmt : Format) (x : CommandFields) : fmt.keep (fmt.keep x) = fmt.keep x := by
  cases fmt <;> rfl

theorem Format.allowedMask_eq_wordOfFields (fmt : Format) :
    fmt.allowedMask = wordOfFields (BitVec.allOnes 8) (fmt.keep ⟨true, true, BitVec.allOnes 8⟩) := by
  cases fmt <;> decide

/-- OPC and the fields a format defines, put together again, are the word under the format's mask. -/
theorem wordOfFields_keep (fmt : Format) (w : Word) :
    wordOfFields (CommandWord.opc w) (fmt.keep (commandFields w)) = w &&& fmt.allowedMask := by
  rw [Format.allowedMask_eq_wordOfFields, and_wordOfFields]
  cases fmt <;> simp only [Format.keep, Bool.and_true, Bool.and_false, BitVec.and_zero, BitVec.and_allOnes]

/-- No 1 outside the mask: the word is its own part under the mask. -/
theorem and_not_eq_zero_iff (w m : Word) : w &&& ~~~m = 0#32 ↔ w &&& m = w := by
  constructor
  · intro h
    calc w &&& m = (w &&& m) ||| (w &&& ~~~m) := by rw [h, BitVec.or_zero]
      _ = w := by rw [← BitVec.and_or_distrib_left, BitVec.or_not_self, BitVec.and_allOnes]
  · intro h
    rw [← h, BitVec.and_assoc, BitVec.and_not_self]
    exact BitVec.and_zero

/-- The fields of a format set no reserved bit of it. -/
theorem wordOfFields_keep_reserved (fmt : Format) (o : Byte) (x : CommandFields) :
    wordOfFields o (fmt.keep x) &&& ~~~fmt.allowedMask = 0#32 := by
  rw [and_not_eq_zero_iff, ← wordOfFields_keep, opc_wordOfFields, commandFields_wordOfFields, Format.keep_keep]

/-! ## The opcode map of R93 -/

/-- What a row builds is a command of the row's opcode, with the fields of the row's format. -/
theorem OpcodeRow.build_spec {r : OpcodeRow} (hr : r ∈ opcodeMap) (x : CommandFields) :
    opcodeOf (r.build x) = r.opc ∧ fieldsOf (r.build x) = r.fmt.keep x := by
  revert r
  simp [opcodeMap, opcodeOf, fieldsOf, Format.keep]

/-- The row of a command's opcode builds the command from its fields. -/
theorem opcodeRow?_opcodeOf (i : Instr) : ∃ r, opcodeRow? (opcodeOf i) = some r ∧ r.build (fieldsOf i) = i := by
  cases i <;> exact ⟨_, rfl, rfl⟩

theorem opcodeRow?_eq_some {o : Byte} {r : OpcodeRow} (h : opcodeRow? o = some r) : r ∈ opcodeMap ∧ r.opc = o :=
  ⟨List.mem_of_find?_eq_some h, by simpa using List.find?_some h⟩

/-- The ranges R94 leaves assigned are the opcodes of the map. -/
theorem opcodeRow?_isSome (w : Word) : (opcodeRow? (CommandWord.opc w)).isSome = CommandWord.opcodeAssigned w := by
  rw [Bool.eq_iff_iff, opcodeRow?, List.find?_isSome, CommandWord.opcodeAssigned]
  generalize CommandWord.opc w = o
  simp only [opcodeMap, List.mem_cons, List.not_mem_nil, or_false, beq_iff_eq, exists_eq_or_imp, ↓existsAndEq,
    true_and, Bool.or_eq_true, Bool.and_eq_true, decide_eq_true_eq]
  bv_omega

/-- The mask of R91 stands in the row of the opcode. -/
theorem OpcodeRow.allowedMask_eq {w : Word} {r : OpcodeRow} (hr : r ∈ opcodeMap) (ho : r.opc = CommandWord.opc w) :
    r.fmt.allowedMask = CommandWord.allowedBits w := by
  rw [CommandWord.allowedBits, ← ho]
  clear ho
  revert r
  simp [opcodeMap, Format.allowedMask]

/-! ## The decoder's answers (R97) -/

theorem decode_of_row {w : Word} {r : OpcodeRow} (h : opcodeRow? (CommandWord.opc w) = some r) :
    decode w =
      if w &&& ~~~ r.fmt.allowedMask = 0#32 then .ok (r.build (commandFields w)) else .error .reservedField := by
  rw [CommandWord.opc] at h
  simp only [decode, h]

theorem decode_of_no_row {w : Word} (h : opcodeRow? (CommandWord.opc w) = none) :
    decode w = .error .illegalOpcode := by
  rw [CommandWord.opc] at h
  simp only [decode, h]

/-- A word that decodes has a row, which built the command, and no 1 outside the mask of the row's format. -/
theorem row_of_decode_ok {w : Word} {i : Instr} (h : decode w = .ok i) :
    ∃ r ∈ opcodeMap, r.opc = CommandWord.opc w ∧ w &&& ~~~ r.fmt.allowedMask = 0#32 ∧
      r.build (commandFields w) = i := by
  cases hr : opcodeRow? (CommandWord.opc w) with
  | none =>
    rw [decode_of_no_row hr] at h
    cases h
  | some r =>
    obtain ⟨hmem, ho⟩ := opcodeRow?_eq_some hr
    rw [decode_of_row hr] at h
    split_ifs at h with hclear
    exact ⟨r, hmem, ho, hclear, Except.ok.inj h⟩

/-- Settles O3: an opcode without a row is refused as such; with a row, the reserved bits decide. -/
theorem decodeRefusesIllFormedWords : Obligations.DecodeRefusesIllFormedWords := by
  intro w
  rw [CommandWord.wellFormed, ← opcodeRow?_isSome]
  cases hr : opcodeRow? (CommandWord.opc w) with
  | none => simp [decode_of_no_row hr]
  | some r =>
    obtain ⟨hmem, ho⟩ := opcodeRow?_eq_some hr
    rw [decode_of_row hr, CommandWord.reservedClear, OpcodeRow.allowedMask_eq hmem ho]
    by_cases hclear : w &&& ~~~ CommandWord.allowedBits w = 0#32 <;> simp [hclear]

/-- Settles O2: the row of the word builds a command of its opcode and fields, and those, put together again, are the
word, which has no 1 outside the mask. -/
theorem encodeInvertsDecode : Obligations.EncodeInvertsDecode := by
  intro w i hdec
  obtain ⟨r, hmem, ho, hclear, rfl⟩ := row_of_decode_ok hdec
  obtain ⟨hopc, hfields⟩ := OpcodeRow.build_spec hmem (commandFields w)
  rw [encode_eq_wordOfFields, hopc, hfields, ho, wordOfFields_keep, (and_not_eq_zero_iff _ _).1 hclear]

/-- Settles O1: the row of the command's opcode builds it from its fields, which the word holds as they are. -/
theorem decodeInvertsEncode : Obligations.DecodeInvertsEncode := by
  intro i
  obtain ⟨r, hr, hbuild⟩ := opcodeRow?_opcodeOf i
  obtain ⟨hmem, -⟩ := opcodeRow?_eq_some hr
  have hkeep : fieldsOf i = r.fmt.keep (fieldsOf i) := by
    rw [← (OpcodeRow.build_spec hmem (fieldsOf i)).2, hbuild]
  have hclear : encode i &&& ~~~ r.fmt.allowedMask = 0#32 := by
    rw [encode_eq_wordOfFields, hkeep]
    exact wordOfFields_keep_reserved _ _ _
  rw [decode_of_row (by rwa [encode_eq_wordOfFields, opc_wordOfFields]), if_pos hclear, encode_eq_wordOfFields,
    commandFields_wordOfFields, hbuild]

/-- Settles O4: each of the words is the encoding of its command. -/
theorem exampleWordsDecode : Obligations.ExampleWordsDecode :=
  ⟨decodeInvertsEncode .nop, decodeInvertsEncode .bwtInv, decodeInvertsEncode (.bwtCsort true),
    decodeInvertsEncode (.mtfInit true true), decodeInvertsEncode (.mtfEnc true), decodeInvertsEncode (.mtfEnc1 0x62#8),
    decodeInvertsEncode (.mtfInit false true), decodeInvertsEncode (.mtfDec1 0xFF#8)⟩

end Sys2Proof
end

section
/-! Command words that decode to no command (R94, R95): the completion step is their error completion. -/

namespace Sys2Proof.Machine

open Sys2Proof

/-- The completion step of a word that is no command is its precise error, with the word as ERRINFO (R97, R181). -/
theorem step_of_decodeError {s : State} {e : DecodeError} (hb : s.csr.status.busy = true)
    (hd : s.delay = 0 ∨ s.hostOp? = none) (h : decode s.csr.cmd = .error e) :
    ∃ t, step s = .next t ∧ FailedPrecisely s t (decodeErrCode e).toByte s.csr.cmd.toNat := by
  refine ⟨s.decodeErrorCompletion e, ?_, s.errorCompletion_failedPrecisely _ _⟩
  rw [step_of_due hb hd, engineStep, h]

/-- Settles O6: the decoder's refusals are those of the ill-formed words, and each is taken as a precise error. -/
theorem undecodableCommandsEndInError : Obligations.UndecodableCommandsEndInError := by
  intro s hb hd
  obtain ⟨hillegal, hreserved, -⟩ := decodeRefusesIllFormedWords s.csr.cmd
  exact ⟨fun ha => step_of_decodeError hb hd (hillegal.2 ha),
    fun ha hc => step_of_decodeError hb hd (hreserved.2 ⟨ha, hc⟩)⟩

end Sys2Proof.Machine
end

section
/-! The host operations (R100): where the engine is not due, the step counts against the pending completion and is the
host's next operation. -/

namespace Sys2Proof.Machine

open Sys2Proof

theorem runHostOp_wr_of_legal {s : State} {sp : Space} {off : Offset} {w : Width} (v : Word)
    (h : LegalAccess s.params sp off w.bytes true) :
    s.runHostOp (.wr sp off w v) = .next (s.spaceWrite sp off w.bytes v).hostNext := by
  rw [State.runHostOp, hostWrite_of_legal h]

theorem runHostOp_rd_of_ok {s : State} {sp : Space} {off : Offset} {w : Width} {d : Word}
    (h : hostRead s sp off w.bytes = .ok d) : s.runHostOp (.rd sp off w) = .next (s.setAcc d).hostNext := by
  rw [State.runHostOp, h]

/-- A legal write leaves the host agent and `epoch` as they were, so the host moves on to its own next operation. -/
theorem spaceWrite_hostNext {s : State} {sp : Space} {off : Offset} {width : Nat} (v : Word)
    (h : LegalAccess s.params sp off width true) :
    (s.spaceWrite sp off width v).hostNext = { s.spaceWrite sp off width v with
      host := ⟨s.host.prog, s.host.pc + 1, s.host.acc⟩, epoch := s.epoch + 1 } := by
  obtain ⟨hhost, -, hepoch⟩ := hostWrite_host s sp off width v
  rw [hostWrite_of_legal h] at hhost hepoch
  rw [State.hostNext, State.hostGoto, hhost, hepoch]

/-- No read depends on the pending completion's `delay` (log entry 3). -/
theorem hostRead_countHostStep (s : State) (sp : Space) (off : Offset) (width : Nat) :
    hostRead s.countHostStep sp off width = hostRead s sp off width := rfl

/-- Settles O13: the step is the host's operation, on the state in which the step is counted. -/
theorem hostOperationsRun : Obligations.HostOperationsRun := by
  intro s hd
  refine ⟨fun sp off w v hop hl => ⟨_, hostWrite_of_legal (s := s.countHostStep) hl v, ?_⟩,
    fun sp off w d hop hr => ?_, fun v hop => ?_, fun l hop => ?_, fun l hop => ?_, fun hb hop => ?_⟩
  · have hlegal : LegalAccess s.countHostStep.params sp off w.bytes true := hl
    rw [step_of_hostOp hd hop, runHostOp_wr_of_legal v hlegal, spaceWrite_hostNext v hlegal]
    rfl
  · rw [step_of_hostOp hd hop, runHostOp_rd_of_ok (by rwa [hostRead_countHostStep])]
    rfl
  · rw [step_of_hostOp hd hop]
    rfl
  · rw [step_of_hostOp hd hop, State.runHostOp, State.countHostStep_host]
    split_ifs <;> rfl
  · rw [step_of_hostOp hd hop, State.runHostOp, State.countHostStep_host]
    split_ifs <;> rfl
  · rw [step_of_not_due (.inl hb), hostStep, hop]

end Sys2Proof.Machine
end

section
/-! The command lifecycle (40_control R110–R114): what every completion step ends with, that a command in flight is
completed, and the CMD writes. -/

namespace Sys2Proof.Machine

open Sys2Proof

/-! ## The end of a completion step -/

/-- The completion step from `s` has ended in `t` (R112, R113; 20_memory R62, R63): idle, DONE, DONE_IP pending, the
operands kept. -/
def Completed (s t : State) : Prop :=
  t.csr.status.busy = false ∧ t.csr.status.done = true ∧ t.csr.irqStatus.done = true ∧ SameOperands s t

theorem SameOperands.refl (s : State) : SameOperands s s :=
  ⟨rfl, rfl, rfl, rfl, rfl, rfl, rfl, rfl, rfl, rfl⟩

theorem SameOperands.completed_complete {s u : State} (h : SameOperands s u) (o c : Nat) :
    Completed s (u.complete o c) :=
  ⟨rfl, rfl, rfl, h⟩

theorem SameOperands.completed_errorCompletion {s u : State} (h : SameOperands s u) (e : ErrCode) (v : Word) :
    Completed s (u.errorCompletion e v) :=
  ⟨rfl, rfl, rfl, h⟩

/-- A success is `complete` of what the command wrote, and no command writes an operand. -/
theorem CommandSucceeds.eq_complete {i : Instr} {s t : State} (h : CommandSucceeds s t i) :
    ∃ u o c, t = u.complete o c ∧ SameOperands s u := by
  cases i with
  | nop | mtfInit _ _ | mtfEnc1 _ | mtfDec1 _ => exact ⟨_, _, _, h, .refl s⟩
  | rleEnc | rleDec | mtfEnc _ | mtfDec _ =>
    obtain ⟨-, -, rfl⟩ := h
    exact ⟨_, _, _, rfl, .refl s⟩
  | rleSinit | bwtHist =>
    obtain ⟨-, rfl⟩ := h
    exact ⟨_, _, _, rfl, .refl s⟩
  | rleSpush =>
    obtain ⟨-, -, rfl⟩ := h
    exact ⟨_, _, _, rfl, .refl s⟩
  | rleSfin =>
    obtain ⟨-, _, -, rfl⟩ := h
    exact ⟨_, _, _, rfl, .refl s⟩
  | bwtCsort b =>
    cases b with
    | true =>
      obtain ⟨-, -, rfl⟩ := h
      exact ⟨_, _, _, rfl, .refl s⟩
    | false =>
      obtain ⟨-, rfl⟩ := h
      exact ⟨_, _, _, rfl, .refl s⟩
  | bwtInv =>
    obtain ⟨-, -, -, rfl⟩ := h
    exact ⟨_, _, _, rfl, .refl s⟩

theorem exec_completed {i : Instr} {s t : State} (h : exec i s = .next t) : Completed s t := by
  obtain ⟨e, v, rfl⟩ | ⟨-, v, rfl⟩ | hs := exec_cases h
  · exact (SameOperands.refl s).completed_errorCompletion e v
  · exact SameOperands.completed_errorCompletion (u := s.forgetObuf) (.refl s) _ v
  · obtain ⟨u, o, c, rfl, hu⟩ := hs.eq_complete
    exact hu.completed_complete o c

theorem engineStep_of_decodeError {s : State} {e : DecodeError} (h : decode s.csr.cmd = .error e) :
    engineStep s = .next (s.decodeErrorCompletion e) := by
  rw [engineStep, h]

theorem engineStep_of_decode {s : State} {i : Instr} (h : decode s.csr.cmd = .ok i) : engineStep s = exec i s := by
  rw [engineStep, h]

theorem engineStep_completed {s t : State} (h : engineStep s = .next t) : Completed s t := by
  cases hd : decode s.csr.cmd with
  | error e =>
    rw [engineStep_of_decodeError hd] at h
    cases h
    exact (SameOperands.refl s).completed_errorCompletion _ _
  | ok i =>
    rw [engineStep_of_decode hd] at h
    exact exec_completed h

/-- No command ends in a fault or a refusal. -/
theorem exec_next (i : Instr) (s : State) : ∃ t, exec i s = .next t := by
  cases i <;> exact ⟨_, rfl⟩

/-- Settles O23: every command answers a next state, and what `exec_cases` says it can be has completed. -/
theorem everyCommandCompletes : Obligations.EveryCommandCompletes := by
  intro i s
  obtain ⟨t, h⟩ := exec_next i s
  exact ⟨t, h, exec_completed h⟩

/-- Settles O5: the due step is the engine's, and the engine runs the decoded command. -/
theorem stepRunsDecodedCommand : Obligations.StepRunsDecodedCommand := by
  intro s i hb hd hdec
  rw [step_of_due hb hd, engineStep_of_decode hdec]

/-- Settles O27: NOP is `complete(0, 0)` and nothing else. -/
theorem nopOnlyCompletes : Obligations.NopOnlyCompletes := fun s =>
  ⟨s.complete 0 0, rfl, State.complete_succeeded (Nat.zero_le _) (Nat.zero_le _) rfl, .refl s,
    ⟨rfl, rfl, rfl, rfl, rfl⟩, ⟨rfl, rfl, rfl⟩, ⟨rfl, rfl, rfl⟩, rfl⟩

/-! ## A command in flight (R113) -/

/-- A host write that leaves BUSY set neither resets nor accepts, and so keeps `delay`. -/
theorem hostWrite_delay {s : State} (hb : s.csr.status.busy = true) {sp : Space} {off : Offset} {width : Nat} {v : Word}
    (ht : (hostWrite s sp off width v).2.csr.status.busy = true) : (hostWrite s sp off width v).2.delay = s.delay := by
  have hcases := hostWrite_cases s sp off width v
  simp only [hb, Bool.true_eq_false, false_and, or_false, false_or, true_and] at hcases
  generalize (hostWrite s sp off width v).2 = t at hcases ht ⊢
  obtain rfl | (rfl | rfl) | rfl | rfl | rfl | rfl := hcases
  · rfl
  · rfl
  · rfl
  · cases ht
  · rfl
  · rfl
  · rfl

theorem runHostOp_delay {s t : State} {o : HostOp} (hb : s.csr.status.busy = true) (h : s.runHostOp o = .next t)
    (ht : t.csr.status.busy = true) : t.delay = s.delay := by
  obtain ⟨sp, off, width, v, u, hu, -, hc, -, -, -, -, -, -, -, hd⟩ := runHostOp_cases h
  rw [hc] at ht
  rw [hd]
  obtain rfl | rfl := hu
  · rfl
  · exact hostWrite_delay hb ht

/-- Settles O10: the host's step is counted once and keeps `delay` beside that; the due step is a completion. -/
theorem acceptedCommandIsCompleted : Obligations.AcceptedCommandIsCompleted := by
  refine ⟨fun s t hb hd hop hstep ht => ?_, fun s hb hd => ?_⟩
  · obtain ⟨o, ho⟩ := Option.ne_none_iff_exists'.1 hop
    rw [step_of_hostOp (.inr hd) ho] at hstep
    rw [runHostOp_delay (s := s.countHostStep) hb hstep ht, State.countHostStep_delay]
    omega
  · obtain ⟨t, h⟩ := engineStep_next s
    obtain ⟨hidle, hdone, -⟩ := engineStep_completed h
    exact ⟨t, by rw [step_of_due hb hd, h], hidle, hdone⟩

/-! ## CMD writes (R111, R114) -/

theorem hostWrite_cmd (s : State) (w : Word) : hostWrite s .csr 0x010#34 4 w = (.ok 0#32, s.csrWrite w .cmd) :=
  hostWrite_csr s rfl rfl w

theorem csrWrite_cmd_of_idle {s : State} (hb : s.csr.status.busy = false) (w : Word) :
    s.csrWrite w .cmd = s.accept w := by
  rw [State.csrWrite, hb]
  rfl

theorem csrWrite_cmd_of_busy {s : State} (hb : s.csr.status.busy = true) (w : Word) :
    s.csrWrite w .cmd = s.dropCommand :=
  if_pos hb

/-- Settles O7: the write is an acceptance, and its `delay` is the one drawn there. -/
theorem commandWriteWhileIdleIsAccepted : Obligations.CommandWriteWhileIdleIsAccepted := by
  intro s w hb
  refine ⟨Config.latency s.epoch, ?_⟩
  rw [hostWrite_cmd, csrWrite_cmd_of_idle hb]
  rfl

/-! ## No command reads CMD_OVR: each meaning commutes with setting it -/

theorem State.finishRle_dropCommand (s : State) (out : List Byte) :
    s.dropCommand.finishRle out = (s.finishRle out).dropCommand := by
  rw [State.finishRle, State.finishRle, apply_ite State.dropCommand]
  rfl

theorem State.finishCsort_dropCommand (s : State) (ns : List Nat) (consumed : Nat) :
    s.dropCommand.finishCsort ns consumed = (s.finishCsort ns consumed).dropCommand := by
  rw [State.finishCsort, State.finishCsort, apply_ite State.dropCommand]
  rfl

/-- The checks of a command come out alike on either state, and each of its ends leaves CMD_OVR as it was. -/
theorem exec_dropCommand {i : Instr} {s t : State} (h : exec i s = .next t) :
    exec i s.dropCommand = .next t.dropCommand := by
  cases i with
  | nop | mtfInit _ _ | mtfEnc1 _ | mtfDec1 _ =>
    cases h
    rfl
  | rleSinit | rleSpush | rleSfin | bwtHist | bwtInv | mtfEnc _ | mtfDec _ =>
    cases h
    simp only [apply_ite State.dropCommand]
    rfl
  | rleEnc | rleDec =>
    cases h
    rw [apply_ite State.dropCommand, ← State.finishRle_dropCommand]
    rfl
  | bwtCsort b =>
    cases h
    simp only [apply_ite State.dropCommand, ← State.finishCsort_dropCommand]
    rfl

theorem engineStep_dropCommand {s t : State} (h : engineStep s = .next t) :
    engineStep s.dropCommand = .next t.dropCommand := by
  cases hd : decode s.csr.cmd with
  | error e =>
    rw [engineStep_of_decodeError hd] at h
    cases h
    exact engineStep_of_decodeError (s := s.dropCommand) hd
  | ok i =>
    rw [engineStep_of_decode hd] at h
    rw [engineStep_of_decode (s := s.dropCommand) hd]
    exact exec_dropCommand h

/-- Settles O8: the write is dropped with CMD_OVR set, which the completion step of the running command carries
along. -/
theorem commandWriteWhileBusyOnlySetsOverrun : Obligations.CommandWriteWhileBusyOnlySetsOverrun := by
  intro s w hb
  rw [hostWrite_cmd, csrWrite_cmd_of_busy hb]
  exact ⟨rfl, fun u hu => engineStep_dropCommand hu⟩

end Sys2Proof.Machine
end

section
/-! RLE-1 run-units, run measuring and the encoder (41_rle R120–R122): the run at the front of a sequence, and the
encoder's induction over such runs. -/

namespace Sys2Proof.Machine

open Sys2Proof

/-! ## Run-units (R120) -/

theorem encodeRun_of_lt {r : Nat} (h : r < 4) (b : Byte) : encodeRun b r = List.replicate r b := by
  simp [encodeRun, Nat.min_eq_left h.le, Nat.not_le.2 h]

theorem encodeRun_of_le {r : Nat} (h : 4 ≤ r) (b : Byte) :
    encodeRun b r = [b, b, b, b, BitVec.ofNat 8 (r - 4)] := by
  simp [encodeRun, h, List.replicate]

/-- A run count within the caps of R4 passes through the byte without loss. -/
theorem continuation_toNat {r : Nat} (h : r ≤ 259) : (BitVec.ofNat 8 (r - 4)).toNat = r - 4 := by
  rw [BitVec.toNat_ofNat]
  exact Nat.mod_eq_of_lt (by omega)

theorem encodeRun_head? {r : Nat} (h : 1 ≤ r) (b : Byte) : (encodeRun b r).head? = some b := by
  obtain h4 | h4 := Nat.lt_or_ge r 4
  · simp [encodeRun_of_lt h4, List.head?_replicate, Nat.ne_of_gt h]
  · simp [encodeRun_of_le h4]

/-- A run-unit is at most a quarter longer than its run (R126). -/
theorem runCost_le (r : Nat) : 4 * runCost r ≤ 5 * r := by
  unfold runCost
  split_ifs <;> omega

/-- Settles O45: the two shapes of a run-unit, below 4 and from 4 on. -/
theorem runUnitShape : Obligations.RunUnitShape := by
  intro b r hr
  refine ⟨encodeRun_length b r, rfl, ?_, fun h => encodeRun_of_lt h b, fun h => ?_⟩
  · simp [encodeRun]
  · exact ⟨BitVec.ofNat 8 (r - 4), by simp [encodeRun_of_le h], continuation_toNat hr⟩

/-! ## Run measuring (R121) -/

/-- A count is within the leading run exactly if it is within the cap and every byte below it is `b`. -/
theorem le_leadCount_iff (b : Byte) (cap r : Nat) (d : List Byte) :
    r ≤ leadCount b cap d ↔ r ≤ cap ∧ ∀ j, j < r → d[j]? = some b := by
  induction d generalizing cap r with
  | nil =>
    have h0 : leadCount b cap [] = 0 := by cases cap <;> rfl
    cases r with
    | zero => simp
    | succ r => exact iff_of_false (by simp [h0]) fun ⟨_, h⟩ => by simpa using h 0 r.succ_pos
  | cons x d ih =>
    cases cap with
    | zero => cases r <;> simp [leadCount]
    | succ cap =>
      cases r with
      | zero => simp
      | succ r =>
        rw [Nat.forall_lt_succ_left]
        by_cases hx : x = b
        · simp [leadCount, hx, ih]
        · simp [leadCount, hx]

theorem leadCount_le (b : Byte) (cap : Nat) (d : List Byte) : leadCount b cap d ≤ cap :=
  ((le_leadCount_iff b cap _ d).1 le_rfl).1

theorem getElem?_of_lt_leadCount {b : Byte} {cap j : Nat} {d : List Byte} (h : j < leadCount b cap d) :
    d[j]? = some b :=
  ((le_leadCount_iff b cap _ d).1 le_rfl).2 j h

theorem leadCount_le_length (b : Byte) (cap : Nat) (d : List Byte) : leadCount b cap d ≤ d.length := by
  by_contra h
  have := getElem?_of_lt_leadCount (Nat.lt_of_not_le h)
  simp at this

/-- A sequence is its leading run and what follows it. -/
theorem replicate_leadCount_append_drop (b : Byte) (cap : Nat) (d : List Byte) :
    List.replicate (leadCount b cap d) b ++ d.drop (leadCount b cap d) = d := by
  have htake : d.take (leadCount b cap d) = List.replicate (leadCount b cap d) b := by
    refine List.eq_replicate_iff.2 ⟨by simpa using leadCount_le_length b cap d, fun x hx => ?_⟩
    obtain ⟨j, hj, rfl⟩ := List.mem_take_iff_getElem.1 hx
    have hb := getElem?_of_lt_leadCount (Nat.lt_of_lt_of_le hj (Nat.min_le_left _ _))
    simpa using (List.getElem?_eq_some_iff.1 hb).2
  rw [← htake, List.take_append_drop]

/-- `r` copies of `b` before `rest` are one round of the encoder (R121): cut by the cap, or ended by another byte or
the end of the sequence. -/
def MaximalRun (cap : Nat) (b : Byte) (r : Nat) (rest : List Byte) : Prop :=
  1 ≤ r ∧ r ≤ cap ∧ (r = cap ∨ rest.head? ≠ some b)

/-- The leading count of a run before `rest` is the run when it fills the cap or `rest` does not go on with it. -/
theorem leadCount_replicate_append {cap r : Nat} {b : Byte} {rest : List Byte} (hr : r ≤ cap)
    (hend : r = cap ∨ rest.head? ≠ some b) : leadCount b cap (List.replicate r b ++ rest) = r := by
  induction r generalizing cap with
  | zero =>
    cases cap with
    | zero => rfl
    | succ cap =>
      cases rest with
      | nil => rfl
      | cons x rest =>
        have hx : x ≠ b := by simpa using hend
        simp [leadCount, hx]
  | succ r ih =>
    cases cap with
    | zero => omega
    | succ cap =>
      have := ih (cap := cap) (by omega) (hend.imp_left (by omega))
      simp [List.replicate_succ, leadCount, this]

theorem MaximalRun.runLen {cap r : Nat} {b : Byte} {rest : List Byte} (h : MaximalRun cap b r rest) :
    runLen cap (List.replicate r b ++ rest) = r := by
  obtain ⟨hpos, hcap, hend⟩ := h
  obtain ⟨r, rfl⟩ := Nat.exists_eq_succ_of_ne_zero (Nat.ne_of_gt hpos)
  exact leadCount_replicate_append hcap hend

theorem runLen_pos {cap : Nat} (hcap : 1 ≤ cap) (b : Byte) (bs : List Byte) : 1 ≤ runLen cap (b :: bs) :=
  (le_leadCount_iff b cap 1 (b :: bs)).2 ⟨hcap, by simp⟩

/-- Past the run at the front the sequence is shorter. -/
theorem length_drop_runLen_le {cap : Nat} (hcap : 1 ≤ cap) (b : Byte) (bs : List Byte) :
    ((b :: bs).drop (runLen cap (b :: bs))).length ≤ bs.length := by
  have hpos := runLen_pos hcap b bs
  rw [List.length_drop, List.length_cons]
  omega

/-- What `run_len` measures is a maximal run. -/
theorem maximalRun_runLen {cap : Nat} (hcap : 1 ≤ cap) (b : Byte) (bs : List Byte) :
    MaximalRun cap b (runLen cap (b :: bs)) ((b :: bs).drop (runLen cap (b :: bs))) := by
  refine ⟨runLen_pos hcap b bs, leadCount_le b cap _, or_iff_not_imp_left.2 fun hne hb => ?_⟩
  have hlt : runLen cap (b :: bs) < cap := Nat.lt_of_le_of_ne (leadCount_le b cap _) hne
  have hmore : runLen cap (b :: bs) + 1 ≤ leadCount b cap (b :: bs) := by
    refine (le_leadCount_iff b cap _ _).2 ⟨hlt, fun j hj => ?_⟩
    obtain hj | rfl := Nat.lt_succ_iff_lt_or_eq.1 hj
    · exact getElem?_of_lt_leadCount hj
    · rwa [List.head?_drop] at hb
  exact absurd hmore (Nat.not_succ_le_self _)

/-- Settles O46: both directions are `le_leadCount_iff` at the suffix from `i`. -/
theorem runLenIsTheLargestRun : Obligations.RunLenIsTheLargestRun := by
  intro cap d i r hcap _ hi hr
  have hrun : r = leadCount d[i] cap (d.drop i) := by
    rw [hr, List.drop_eq_getElem_cons hi]
    rfl
  have hmax : ∀ r', r' ≤ r ↔ r' ≤ cap ∧ ∀ j, j < r' → d[i + j]? = d[i]? := by
    intro r'
    simpa [hrun, hi] using le_leadCount_iff d[i] cap r' (d.drop i)
  obtain ⟨hrcap, hsame⟩ := (hmax r).1 le_rfl
  have hlen := leadCount_le_length d[i] cap (d.drop i)
  rw [← hrun, List.length_drop] at hlen
  exact ⟨⟨(hmax 1).2 ⟨by omega, by simp⟩, hrcap, by omega, hsame⟩, fun r' _ hc _ hj => (hmax r').2 ⟨hc, hj⟩⟩

/-! ## The encoder (R122) -/

/-- Fuel beyond the length of the sequence changes nothing. -/
theorem rleEncLoop_fuel {cap : Nat} (hcap : 1 ≤ cap) {n m : Nat} {d : List Byte} (hn : d.length ≤ n)
    (hm : d.length ≤ m) : rleEncLoop cap n d = rleEncLoop cap m d := by
  induction n generalizing m d with
  | zero =>
    obtain rfl := List.length_eq_zero_iff.1 (Nat.le_zero.1 hn)
    cases m <;> rfl
  | succ n ih =>
    cases d with
    | nil => cases m <;> rfl
    | cons b bs =>
      obtain ⟨m, rfl⟩ := Nat.exists_eq_succ_of_ne_zero (Nat.ne_of_gt (Nat.lt_of_lt_of_le (Nat.succ_pos _) hm))
      have hlen := length_drop_runLen_le hcap b bs
      rw [List.length_cons] at hn hm
      rw [rleEncLoop, rleEncLoop, ih (m := m) (by omega) (by omega)]

@[simp] theorem rleEnc_nil (cap : Nat) : rleEnc cap [] = [] := rfl

theorem rleEnc_cons {cap : Nat} (hcap : 1 ≤ cap) (b : Byte) (bs : List Byte) :
    rleEnc cap (b :: bs) =
      encodeRun b (runLen cap (b :: bs)) ++ rleEnc cap ((b :: bs).drop (runLen cap (b :: bs))) := by
  rw [rleEnc, List.length_cons, rleEncLoop, rleEncLoop_fuel hcap (length_drop_runLen_le hcap b bs) le_rfl]
  rfl

/-- Settles O47: a round is `rleEnc_cons`. -/
theorem rleEncodeRounds : Obligations.RleEncodeRounds := fun cap hcap _ =>
  ⟨rleEnc_nil cap, rleEnc_cons (by omega)⟩

/-- The encoder turns a maximal run into its run-unit. -/
theorem MaximalRun.rleEnc {cap r : Nat} {b : Byte} {rest : List Byte} (h : MaximalRun cap b r rest) :
    rleEnc cap (List.replicate r b ++ rest) = encodeRun b r ++ rleEnc cap rest := by
  have hrun := h.runLen
  obtain ⟨hpos, hcap, -⟩ := h
  obtain ⟨r, rfl⟩ := Nat.exists_eq_succ_of_ne_zero (Nat.ne_of_gt hpos)
  rw [List.replicate_succ, List.cons_append] at hrun ⊢
  rw [rleEnc_cons (by omega), hrun]
  simp

/-- Induction over the rounds of the encoder: a sequence is empty or a maximal run before a shorter one. -/
theorem run_induction {cap : Nat} (hcap : 1 ≤ cap) {motive : List Byte → Prop} (nil : motive [])
    (run : ∀ b r rest, MaximalRun cap b r rest → motive rest → motive (List.replicate r b ++ rest))
    (d : List Byte) : motive d := by
  induction hn : d.length using Nat.strong_induction_on generalizing d with
  | _ n ih =>
    cases d with
    | nil => exact nil
    | cons b bs =>
      have hmax := maximalRun_runLen hcap b bs
      have hlt : ((b :: bs).drop (runLen cap (b :: bs))).length < n := by
        rw [← hn]
        exact Nat.lt_succ_of_le (length_drop_runLen_le hcap b bs)
      have hsplit : List.replicate (runLen cap (b :: bs)) b ++ (b :: bs).drop (runLen cap (b :: bs)) = b :: bs :=
        replicate_leadCount_append_drop b cap (b :: bs)
      have hstep := run b _ _ hmax (ih _ hlt _ rfl)
      rwa [hsplit] at hstep

/-- The encoding begins with the byte the sequence begins with. -/
theorem rleEnc_head? {cap : Nat} (hcap : 1 ≤ cap) (d : List Byte) : (rleEnc cap d).head? = d.head? := by
  cases d with
  | nil => rfl
  | cons b bs =>
    rw [rleEnc_cons hcap, List.head?_append, encodeRun_head? (runLen_pos hcap b bs)]
    rfl

/-- The bound of R126 on the encoding, in whole numbers. -/
theorem rleEnc_length_le {cap : Nat} (hcap : 1 ≤ cap) (d : List Byte) :
    4 * (rleEnc cap d).length ≤ 5 * d.length := by
  induction d using run_induction hcap with
  | nil => simp
  | run b r rest h ih =>
    have := runCost_le r
    rw [h.rleEnc, List.length_append, List.length_append, encodeRun_length, List.length_replicate]
    omega

end Sys2Proof.Machine
end

section
/-! The RLE-1 decoder (41_rle R123), round by round, its size bound (R126) and the round trip (R124). -/

namespace Sys2Proof.Machine

open Sys2Proof

/-! ## One round of the loop -/

/-- Fewer than 4 bytes are copied. -/
theorem rleDecLoop_short (n : Nat) {e : List Byte} (h : e.length < 4) : rleDecLoop (n + 1) e = e := by
  match e, h with
  | [], _ | [_], _ | [_, _], _ | [_, _, _], _ => rfl

@[simp] theorem rleDecLoop_nil (n : Nat) : rleDecLoop n [] = [] := by cases n <;> rfl

/-- A whole window of equal bytes and a continuation byte. -/
theorem rleDecLoop_run (n : Nat) (b c : Byte) (rest : List Byte) :
    rleDecLoop (n + 1) (b :: b :: b :: b :: c :: rest) =
      List.replicate (4 + c.toNat) b ++ rleDecLoop n rest := by
  simp [rleDecLoop]

/-- A window that is not wholly equal, or that nothing follows, gives its leading run as literals. -/
theorem rleDecLoop_literal (n : Nat) {b b1 b2 b3 : Byte} {rest : List Byte}
    (h : leadCount b 4 (b :: b1 :: b2 :: b3 :: rest) < 4 ∨ rest = []) :
    rleDecLoop (n + 1) (b :: b1 :: b2 :: b3 :: rest) =
      List.replicate (leadCount b 4 (b :: b1 :: b2 :: b3 :: rest)) b ++
        rleDecLoop n ((b :: b1 :: b2 :: b3 :: rest).drop (leadCount b 4 (b :: b1 :: b2 :: b3 :: rest))) := by
  by_cases hall : b1 = b ∧ b2 = b ∧ b3 = b
  · obtain ⟨rfl, rfl, rfl⟩ := hall
    obtain rfl := h.resolve_left (by simp [leadCount])
    simp [rleDecLoop]
  · simp only [rleDecLoop, hall, decide_false]

/-- What a round does, whatever the fuel after it: it appends `out` and goes on with a shorter `e'`. It emits what it
consumes, or up to 259 bytes for 5 (R126). -/
theorem rleDecLoop_round {e : List Byte} (he : e ≠ []) : ∃ out e' : List Byte,
    e'.length < e.length ∧
      (out.length + e'.length = e.length ∨ e'.length + 5 = e.length ∧ out.length ≤ 259) ∧
      ∀ n, rleDecLoop (n + 1) e = out ++ rleDecLoop n e' := by
  obtain hshort | hlong := Nat.lt_or_ge e.length 4
  · exact ⟨e, [], List.length_pos_iff.2 he, .inl rfl, fun n => by simp [rleDecLoop_short n hshort]⟩
  · match e, hlong with
    | b :: b1 :: b2 :: b3 :: rest, _ =>
      by_cases h : leadCount b 4 (b :: b1 :: b2 :: b3 :: rest) < 4 ∨ rest = []
      · have hpos : 1 ≤ leadCount b 4 (b :: b1 :: b2 :: b3 :: rest) := runLen_pos (cap := 4) (by decide) b _
        have hle := leadCount_le_length b 4 (b :: b1 :: b2 :: b3 :: rest)
        refine ⟨_, _, ?_, .inl ?_, fun n => rleDecLoop_literal n h⟩
        · rw [List.length_drop]
          omega
        · rw [List.length_replicate, List.length_drop]
          omega
      · obtain ⟨hall, hrest⟩ := not_or.1 h
        obtain ⟨c, rest, rfl⟩ := List.exists_cons_of_ne_nil hrest
        have heq := ((le_leadCount_iff b 4 4 _).1 (Nat.le_of_not_lt hall)).2
        obtain rfl : b1 = b := by simpa using heq 1 (by decide)
        obtain rfl : b2 = b1 := by simpa using heq 2 (by decide)
        obtain rfl : b3 = b2 := by simpa using heq 3 (by decide)
        refine ⟨_, _, ?_, .inr ⟨rfl, ?_⟩, fun n => rleDecLoop_run n b3 c rest⟩
        · simp only [List.length_cons]
          omega
        · rw [List.length_replicate]
          have := c.isLt
          omega

/-- Fuel beyond the length of the sequence changes nothing. -/
theorem rleDecLoop_fuel {n m : Nat} {e : List Byte} (hn : e.length ≤ n) (hm : e.length ≤ m) :
    rleDecLoop n e = rleDecLoop m e := by
  induction n generalizing m e with
  | zero =>
    obtain rfl := List.length_eq_zero_iff.1 (Nat.le_zero.1 hn)
    simp
  | succ n ih =>
    by_cases he : e = []
    · simp [he]
    · obtain ⟨out, e', hlt, -, hround⟩ := rleDecLoop_round he
      obtain ⟨m, rfl⟩ := Nat.exists_eq_succ_of_ne_zero (show m ≠ 0 by omega)
      rw [hround, hround, ih (m := m) (by omega) (by omega)]

theorem rleDecLoop_eq_rleDec {n : Nat} {e : List Byte} (h : e.length ≤ n) : rleDecLoop n e = rleDec e :=
  rleDecLoop_fuel h le_rfl

/-! ## The decoder -/

@[simp] theorem rleDec_nil : rleDec [] = [] := rfl

theorem rleDec_of_length_lt {e : List Byte} (h : e.length < 4) : rleDec e = e := by
  cases e with
  | nil => rfl
  | cons b bs => exact rleDecLoop_short bs.length h

theorem rleDec_run (b c : Byte) (rest : List Byte) :
    rleDec (b :: b :: b :: b :: c :: rest) = List.replicate (4 + c.toNat) b ++ rleDec rest := by
  rw [rleDec, List.length_cons, rleDecLoop_run, rleDecLoop_eq_rleDec]
  simp only [List.length_cons]
  omega

/-- Fewer than four equal bytes that another byte or the end follows are literals. -/
theorem rleDec_literal {r : Nat} (hr : r < 4) {b : Byte} {e : List Byte} (he : e.head? ≠ some b) :
    rleDec (List.replicate r b ++ e) = List.replicate r b ++ rleDec e := by
  obtain hshort | hlong := Nat.lt_or_ge (List.replicate r b ++ e).length 4
  · have hshort' : e.length < 4 := Nat.lt_of_le_of_lt (by simp) hshort
    rw [rleDec_of_length_lt hshort, rleDec_of_length_lt hshort']
  · have hlead := leadCount_replicate_append hr.le (.inr he)
    have hdrop : (List.replicate r b ++ e).drop r = e := by simp
    cases r with
    | zero => rfl
    | succ r =>
      rw [List.replicate_succ, List.cons_append] at hlong hlead hdrop ⊢
      generalize List.replicate r b ++ e = w at hlong hlead hdrop ⊢
      match w, hlong with
      | b1 :: b2 :: b3 :: rest, _ =>
        have hlen : e.length ≤ (b1 :: b2 :: b3 :: rest).length := by
          rw [← hdrop, List.drop_succ_cons, List.length_drop]
          exact Nat.sub_le _ _
        rw [rleDec, List.length_cons, rleDecLoop_literal _ (.inl (by omega)), hlead, hdrop,
          rleDecLoop_eq_rleDec hlen]
        rfl

/-- Settles O48: a run, and the literal runs of length 1, 2 and 3; four equal bytes at the end are 4 literals. -/
theorem rleDecodeRounds : Obligations.RleDecodeRounds := by
  refine ⟨fun e h => rleDec_of_length_lt h, rleDec_run, fun b => ?_, fun b b1 b2 b3 rest h => ?_,
    fun b b2 b3 rest h => ?_, fun b b3 rest h => ?_⟩
  · have hlead : leadCount b 4 [b, b, b, b] = 4 := by simp [leadCount]
    rw [rleDec, List.length_cons, rleDecLoop_literal _ (.inr rfl), hlead]
    rfl
  · exact rleDec_literal (r := 1) (by decide) (by simpa using h)
  · exact rleDec_literal (r := 2) (by decide) (by simpa using h)
  · exact rleDec_literal (r := 3) (by decide) (by simpa using h)

/-! ## The round trip (R124) -/

/-- A run-unit decodes to its run: from 4 on whatever follows it, below 4 when no equal byte follows. -/
theorem rleDec_encodeRun {r : Nat} (hr : r ≤ 259) {b : Byte} {e : List Byte} (he : r < 4 → e.head? ≠ some b) :
    rleDec (encodeRun b r ++ e) = List.replicate r b ++ rleDec e := by
  obtain h4 | h4 := Nat.lt_or_ge r 4
  · rw [encodeRun_of_lt h4, rleDec_literal h4 (he h4)]
  · have hrun := rleDec_run b (BitVec.ofNat 8 (r - 4)) e
    rw [continuation_toNat hr, Nat.add_sub_of_le h4] at hrun
    rw [encodeRun_of_le h4]
    exact hrun

/-- Settles O49, by induction over the encoder's rounds: a run the cap cuts has at least 4 bytes, and after any other
the encoding goes on with another byte. -/
theorem rleRoundTrip : Obligations.RleRoundTrip := by
  intro cap x h4 h259
  have hcap : 1 ≤ cap := by omega
  induction x using run_induction hcap with
  | nil => rfl
  | run b r rest h ih =>
    obtain ⟨-, hr, hend⟩ := id h
    have hnext : r < 4 → (rleEnc cap rest).head? ≠ some b := fun hlt => by
      rw [rleEnc_head? hcap]
      exact hend.resolve_left (by omega)
    rw [h.rleEnc, rleDec_encodeRun (hr.trans h259) hnext, ih]

/-! ## The size bounds (R126) -/

/-- By induction on the length: a round of 5 bytes adds up to 259, any other adds what it consumes. -/
theorem rleDec_length_le (e : List Byte) : (rleDec e).length ≤ 259 * (e.length / 5) + e.length % 5 := by
  induction hn : e.length using Nat.strong_induction_on generalizing e with
  | _ n ih =>
    by_cases he : e = []
    · subst he
      simp
    · obtain ⟨out, e', hlt, hsize, hround⟩ := rleDecLoop_round he
      have hdec : rleDec e = out ++ rleDec e' := by
        obtain ⟨m, hm⟩ := Nat.exists_eq_succ_of_ne_zero (show e.length ≠ 0 by omega)
        rw [rleDec, hm, hround, rleDecLoop_eq_rleDec (by omega)]
      have hrest := ih _ (hn ▸ hlt) e' rfl
      rw [hdec, List.length_append]
      omega

/-- Settles O50. -/
theorem rleSizeBounds : Obligations.RleSizeBounds := by
  refine ⟨fun cap d h4 _ => ?_, rleDec_length_le⟩
  have := rleEnc_length_le (show 1 ≤ cap by omega) d
  omega

end Sys2Proof.Machine
end

section
/-! The RLE commands that pass their checks (41_rle R125, R127–R130), and the rounds of the push loop. -/

namespace Sys2Proof.Machine

open Sys2Proof

/-! ## RLE.ENC and RLE.DEC (R125, R127) -/

theorem State.lenOutOfRange_of_inputFits {s : State} (h : s.InputFits) : s.lenOutOfRange = false := by
  simpa [State.lenOutOfRange] using h

theorem State.outputTooLong_of_le {s : State} {n : Nat} (h : n ≤ s.params.obufBytes) :
    s.outputTooLong n = false := by
  simpa [State.outputTooLong] using h

theorem exec_rleEnc_of_inputFits {s : State} (h : s.InputFits) :
    exec .rleEnc s = .next (s.finishRle (rleEnc s.params.runCap (s.input s.len))) := by
  rw [exec, execRleEnc, State.lenOutOfRange_of_inputFits h]
  rfl

theorem exec_rleDec_of_inputFits {s : State} (h : s.InputFits) :
    exec .rleDec s = .next (s.finishRle (rleDec (s.input s.len))) := by
  rw [exec, execRleDec, State.lenOutOfRange_of_inputFits h]
  rfl

/-- The end of either command when its result fits: the result is all that is written. -/
theorem State.finishRle_of_le {s : State} (hp : s.params.Legal) {out : List Byte}
    (h : out.length ≤ s.params.obufBytes) :
    Succeeded s (s.finishRle out) out.length s.len ∧ StoredAt s.obuf (s.finishRle out).obuf 0 out ∧
      SameOperands s (s.finishRle out) ∧ SameStream s (s.finishRle out) ∧ SameMtf s (s.finishRle out) ∧
      SameLf s (s.finishRle out) := by
  obtain ⟨-, -, -, ho, -⟩ := hp
  have hlen : s.len ≤ wordMax := Nat.le_of_lt_succ s.csr.len.isLt
  have hend : s.finishRle out = (s.writeObuf 0 out).complete out.length s.len := by
    rw [State.finishRle, State.outputTooLong_of_le h]
    rfl
  rw [hend]
  exact ⟨State.complete_succeeded (h.trans ho) hlen rfl, storedAt_write _ _ _, .refl s, ⟨rfl, rfl, rfl, rfl, rfl⟩,
    ⟨rfl, rfl, rfl⟩, ⟨rfl, rfl, rfl⟩⟩

/-- Settles O28: past the check of LEN the command is `finishRle` of the encoding. -/
theorem rleEncWritesEncoding : Obligations.RleEncWritesEncoding := fun _ hp hl ho =>
  ⟨_, exec_rleEnc_of_inputFits hl, State.finishRle_of_le hp ho⟩

/-- Settles O29: past the check of LEN the command is `finishRle` of the decoding. -/
theorem rleDecWritesDecoding : Obligations.RleDecWritesDecoding := fun _ hp hl ho =>
  ⟨_, exec_rleDec_of_inputFits hl, State.finishRle_of_le hp ho⟩

/-! ## The streaming commands (R128–R130) -/

theorem exec_rleSinit_of_le {s : State} (h : s.csr.rleMax.toNat ≤ s.params.obufBytes) :
    exec .rleSinit s = .next (((s.setStream true 0#8 0 0).setCaplim s.csr.rleMax).complete 0 0) := by
  rw [exec, execRleSinit, State.outputTooLong_of_le h]
  rfl

theorem exec_rleSpush_of_active {s : State} (ha : s.csr.status.rleActive = true) (h : s.InputFits) :
    exec .rleSpush s = .next (s.finishPush s.pushResult) := by
  rw [exec, execRleSpush, State.lenOutOfRange_of_inputFits h, ha]
  rfl

/-- The state after RLE.SFIN of an active stream (R130). -/
abbrev State.finishStream (s : State) : State :=
  ((s.writeObuf s.csr.rleSout.toNat s.pendingRun).setStream false 0#8 0
    (s.csr.rleSout.toNat + s.pendingRun.length)).complete (s.csr.rleSout.toNat + s.pendingRun.length) 0

theorem exec_rleSfin_of_active {s : State} (ha : s.csr.status.rleActive = true) :
    exec .rleSfin s = .next s.finishStream := by
  rw [exec, execRleSfin, ha]
  rfl

/-- Settles O30. -/
theorem rleSinitStartsStream : Obligations.RleSinitStartsStream := fun s h =>
  ⟨_, exec_rleSinit_of_le h, State.complete_succeeded (Nat.zero_le _) (Nat.zero_le _) rfl, rfl, rfl, rfl, rfl, rfl,
    .refl s, ⟨rfl, rfl, rfl⟩, ⟨rfl, rfl, rfl⟩, rfl⟩

/-- Settles O31: the variables of the loop fit their registers, since the loop keeps the capacity and the run cap. -/
theorem rleSpushRunsThePushLoop : Obligations.RleSpushRunsThePushLoop := by
  intro s p hp hs ha hl hpush
  obtain rfl : p = s.pushResult := hpush
  obtain ⟨hpc, hfit⟩ := pushResult_fits hp ha hs
  obtain ⟨-, -, -, -, -, hcap⟩ := id hp
  have hmax := s.csr.rleCaplim.isLt
  have hlen := s.csr.len.isLt
  have hk : s.pushResult.k ≤ s.len := by
    obtain ⟨hroom, -, hcount⟩ := (State.streamLegal_iff_of_active ha).1 hs
    obtain ⟨-, -, hk⟩ := pushLoop_keeps (show 1 ≤ s.params.runCap by omega)
      (p := ⟨s.csr.pendingByte, s.csr.pendingCount.toNat, [], 0⟩) (bs := s.input s.len) hcount hroom
    simpa [State.pushResult] using hk
  have hpcReg : (BitVec.ofNat 9 s.pushResult.pc).toNat = s.pushResult.pc := Nat.mod_eq_of_lt (by omega)
  have hsoutReg : (BitVec.ofNat 32 (s.csr.rleSout.toNat + s.pushResult.flushed.length)).toNat =
      s.csr.rleSout.toNat + s.pushResult.flushed.length := Nat.mod_eq_of_lt (by omega)
  refine ⟨_, exec_rleSpush_of_active ha hl,
    State.complete_succeeded (by unfold wordMax; omega) (Nat.le_of_lt_succ (Nat.lt_of_le_of_lt hk hlen)) rfl,
    storedAt_write _ _ _, rfl, rfl, hpcReg, hsoutReg, rfl, ?_, .refl s, ⟨rfl, rfl, rfl⟩, ⟨rfl, rfl, rfl⟩⟩
  change (BitVec.ofNat 32 _).toNat + runCost (BitVec.ofNat 9 _).toNat ≤ s.csr.rleCaplim.toNat
  rwa [hpcReg, hsoutReg]

/-- Settles O33: the pending run costs what the capacity keeps free for it. -/
theorem rleSfinFlushesPendingRun : Obligations.RleSfinFlushesPendingRun := by
  intro s f hp hs ha hf
  obtain rfl : f = s.pendingRun := hf
  obtain ⟨hroom, -⟩ := (State.streamLegal_iff_of_active ha).1 hs
  have hmax := s.csr.rleCaplim.isLt
  have hfit : s.csr.rleSout.toNat + s.pendingRun.length ≤ s.csr.rleCaplim.toNat := by
    rwa [State.pendingRun, encodeRun_length]
  exact ⟨_, exec_rleSfin_of_active ha, State.complete_succeeded (by unfold wordMax; omega) (Nat.zero_le _) rfl,
    storedAt_write _ _ _, hfit, rfl, rfl, rfl, Nat.mod_eq_of_lt (by omega), rfl, .refl s, ⟨rfl, rfl, rfl⟩,
    ⟨rfl, rfl, rfl⟩⟩

/-! ## The rounds of the push loop (R129) -/

/-- The byte `b` goes on with the pending run, which the cap does not yet cut. -/
abbrev PushLoop.Extends (cap : Nat) (p : PushLoop) (b : Byte) : Prop := 0 < p.pc ∧ b = p.pb ∧ p.pc < cap

theorem PushLoop.not_extends_iff {cap : Nat} {p : PushLoop} {b : Byte} :
    ¬ p.Extends cap b ↔ p.pc = 0 ∨ b ≠ p.pb ∨ cap ≤ p.pc := by
  simp only [PushLoop.Extends, not_and_or, not_lt, Nat.le_zero, ne_eq]

section
variable {cap max sout : Nat} {p : PushLoop} {b : Byte}

theorem pushLoop_extend (h : p.Extends cap b) (hfit : sout + p.flushed.length + runCost (p.pc + 1) ≤ max)
    (bs : List Byte) :
    pushLoop cap max sout p (b :: bs) = pushLoop cap max sout { p with pc := p.pc + 1, k := p.k + 1 } bs := by
  rw [pushLoop, if_pos h, if_neg (Nat.not_lt.2 hfit)]

theorem pushLoop_extend_stop (h : p.Extends cap b) (hfull : max < sout + p.flushed.length + runCost (p.pc + 1))
    (bs : List Byte) : pushLoop cap max sout p (b :: bs) = p := by
  rw [pushLoop, if_pos h, if_pos hfull]

theorem pushLoop_flush (h : ¬ p.Extends cap b) (hfit : sout + p.flushed.length + runCost p.pc + 1 ≤ max)
    (bs : List Byte) : pushLoop cap max sout p (b :: bs) =
      pushLoop cap max sout ⟨b, 1, p.flushed ++ encodeRun p.pb p.pc, p.k + 1⟩ bs := by
  rw [pushLoop, if_neg h, encodeRun_length, if_neg (Nat.not_lt.2 hfit)]

theorem pushLoop_flush_stop (h : ¬ p.Extends cap b) (hfull : max < sout + p.flushed.length + runCost p.pc + 1)
    (bs : List Byte) : pushLoop cap max sout p (b :: bs) = p := by
  rw [pushLoop, if_neg h, encodeRun_length, if_pos hfull]

end

/-- Settles O32: the four branches of a round, and the end of the input. -/
theorem pushLoopRound : Obligations.PushLoopRound := fun _ _ _ _ _ bs =>
  ⟨fun h0 hb hc hfit => pushLoop_extend ⟨h0, hb, hc⟩ hfit bs,
    fun h0 hb hc hfull => pushLoop_extend_stop ⟨h0, hb, hc⟩ hfull bs,
    fun h hfit => pushLoop_flush (PushLoop.not_extends_iff.2 h) hfit bs,
    fun h hfull => pushLoop_flush_stop (PushLoop.not_extends_iff.2 h) hfull bs, rfl⟩

end Sys2Proof.Machine
end

section
/-! The streaming encoder gives the one-shot encoding of what it consumed (41_rle R131): the bytes flushed are settled,
whatever the stream consumes next. -/

namespace Sys2Proof.Machine

open Sys2Proof

/-! ## What the push loop has encoded -/

/-- After consuming `x` the flushed bytes `f` are settled: whatever comes next, the encoding of the whole is `f` and
the encoding from the pending run on. -/
def FlushedEncodes (cap : Nat) (x f : List Byte) (pb : Byte) (pc : Nat) : Prop :=
  ∀ next, rleEnc cap (x ++ next) = f ++ rleEnc cap (List.replicate pc pb ++ next)

theorem FlushedEncodes.start (cap : Nat) (pb : Byte) : FlushedEncodes cap [] [] pb 0 := fun _ => rfl

/-- A run within the cap that does not go on is encoded as its run-unit, an empty one as nothing. -/
theorem rleEnc_replicate_append {cap pc : Nat} {pb : Byte} {next : List Byte} (hpc : pc ≤ cap)
    (hend : pc = 0 ∨ pc = cap ∨ next.head? ≠ some pb) :
    rleEnc cap (List.replicate pc pb ++ next) = encodeRun pb pc ++ rleEnc cap next := by
  obtain rfl | hpos := Nat.eq_zero_or_pos pc
  · rfl
  · exact MaximalRun.rleEnc ⟨hpos, hpc, hend.resolve_left (Nat.ne_of_gt hpos)⟩

theorem FlushedEncodes.extend {cap pc : Nat} {x f : List Byte} {pb : Byte} (h : FlushedEncodes cap x f pb pc) :
    FlushedEncodes cap (x ++ [pb]) f pb (pc + 1) := fun next => by
  rw [List.append_assoc, h, List.replicate_succ', List.append_assoc]

theorem FlushedEncodes.flush {cap pc : Nat} {x f : List Byte} {pb b : Byte} (h : FlushedEncodes cap x f pb pc)
    (hpc : pc ≤ cap) (hend : pc = 0 ∨ b ≠ pb ∨ cap ≤ pc) :
    FlushedEncodes cap (x ++ [b]) (f ++ encodeRun pb pc) b 1 := fun next => by
  have hrun : pc = 0 ∨ pc = cap ∨ (b :: next).head? ≠ some pb := by
    obtain h0 | hb | hc := hend
    · exact .inl h0
    · exact .inr (.inr (by simpa using hb))
    · exact .inr (.inl (Nat.le_antisymm hpc hc))
  rw [List.append_assoc, List.singleton_append, h, rleEnc_replicate_append hpc hrun, List.append_assoc]
  rfl

/-- With nothing to come, the pending run is the rest of the encoding. -/
theorem FlushedEncodes.rleEnc_eq {cap pc : Nat} {x f : List Byte} {pb : Byte} (h : FlushedEncodes cap x f pb pc)
    (hpc : pc ≤ cap) : rleEnc cap x = f ++ encodeRun pb pc := by
  have hnil := h []
  rw [rleEnc_replicate_append hpc (.inr (.inr (by simp)))] at hnil
  simpa using hnil

/-- The loop has come from `k` bytes consumed to `q` over the front of `bs`, and its flushed bytes are settled; `f` and
`x` are what the commands before have flushed and consumed. -/
def PushLoop.EncodesFront (cap : Nat) (f x bs : List Byte) (k : Nat) (q : PushLoop) : Prop :=
  ∃ j, q.k = k + j ∧ FlushedEncodes cap (x ++ bs.take j) (f ++ q.flushed) q.pb q.pc

theorem FlushedEncodes.encodesFront {cap : Nat} {f x : List Byte} {p : PushLoop}
    (h : FlushedEncodes cap x (f ++ p.flushed) p.pb p.pc) (bs : List Byte) : p.EncodesFront cap f x bs p.k :=
  ⟨0, rfl, by simpa using h⟩

theorem PushLoop.EncodesFront.cons {cap k : Nat} {f x bs : List Byte} {b : Byte} {q : PushLoop}
    (h : q.EncodesFront cap f (x ++ [b]) bs (k + 1)) : q.EncodesFront cap f x (b :: bs) k := by
  obtain ⟨j, hk, hj⟩ := h
  exact ⟨j + 1, by omega, by simpa using hj⟩

theorem pushLoop_encodesFront {cap max sout : Nat} (hcap : 1 ≤ cap) {f x : List Byte} {p : PushLoop} {bs : List Byte}
    (hpc : p.pc ≤ cap) (h : FlushedEncodes cap x (f ++ p.flushed) p.pb p.pc) :
    (pushLoop cap max sout p bs).EncodesFront cap f x bs p.k := by
  induction bs generalizing p x with
  | nil => exact h.encodesFront []
  | cons b bs ih =>
    by_cases hext : p.Extends cap b
    · obtain hfull | hfit := Nat.lt_or_ge max (sout + p.flushed.length + runCost (p.pc + 1))
      · rw [pushLoop_extend_stop hext hfull]
        exact h.encodesFront _
      · rw [pushLoop_extend hext hfit]
        obtain ⟨-, rfl, hlt⟩ := hext
        exact (ih (p := { p with pc := p.pc + 1, k := p.k + 1 }) hlt h.extend).cons
    · obtain hfull | hfit := Nat.lt_or_ge max (sout + p.flushed.length + runCost p.pc + 1)
      · rw [pushLoop_flush_stop hext hfull]
        exact h.encodesFront _
      · rw [pushLoop_flush hext hfit]
        have hflush := h.flush hpc (PushLoop.not_extends_iff.1 hext)
        rw [List.append_assoc] at hflush
        exact (ih (p := ⟨b, 1, p.flushed ++ encodeRun p.pb p.pc, p.k + 1⟩) hcap hflush).cons

/-! ## OBUF below RLE_SOUT -/

/-- A store after the bytes that are there leaves them and adds its own. -/
theorem StoredAt.reads_append {w n : Nat} {m m' : Memory w} {f vs : List (BitVec w)} (h : StoredAt m m' n vs)
    (hf : (List.range n).map m.read? = f.map some) :
    (List.range (n + vs.length)).map m'.read? = (f ++ vs).map some := by
  have hbelow : (List.range n).map m'.read? = (List.range n).map m.read? := by
    refine List.map_congr_left fun i hi => ?_
    rw [h i, if_neg fun hle => Nat.not_le.2 (List.mem_range.1 hi) hle.1]
  have hnew : (List.range vs.length).map (fun i => m'.read? (n + i)) = vs.map some := by
    refine List.ext_getElem (by simp) fun i hi _ => ?_
    have hlt : i < vs.length := by simpa using hi
    simp [h (n + i), hlt]
  rw [List.range_add, List.map_append, hbelow, hf, List.map_map, List.map_append]
  exact congrArg _ hnew

/-! ## The invariant of a stream (R131) -/

/-- What holds of a stream at every point after it has consumed `x`. -/
def State.StreamEncodes (s : State) (x : List Byte) : Prop :=
  s.params.Legal ∧ s.csr.status.rleActive = true ∧ s.StreamLegal ∧
    ∃ f : List Byte, (List.range s.csr.rleSout.toNat).map s.obuf.read? = f.map some ∧
      FlushedEncodes s.params.runCap x f s.csr.pendingByte s.csr.pendingCount.toNat

theorem streamEncodes_rleSinit {s t : State} (hp : s.params.Legal) (hm : s.csr.rleMax.toNat ≤ s.params.obufBytes)
    (h : exec .rleSinit s = .next t) : t.StreamEncodes [] := by
  rw [exec_rleSinit_of_le hm] at h
  cases h
  exact ⟨hp, rfl, by simp [State.StreamLegal, runCost, hm], [], rfl, .start _ _⟩

theorem State.StreamEncodes.untouched {s t : State} {x : List Byte} (h : s.StreamEncodes x)
    (hu : StreamUntouched s t) : t.StreamEncodes x := by
  obtain ⟨hp, ha, hs, f, hf, henc⟩ := h
  obtain ⟨hparams, ⟨hactive, hpb, hpc, hsout, hcaplim⟩, hobuf⟩ := hu
  obtain ⟨hroom, -⟩ := (State.streamLegal_iff_of_active ha).1 hs
  refine ⟨hparams ▸ hp, hactive ▸ ha, ?_, f, ?_, ?_⟩
  · simpa only [State.StreamLegal, hparams, hactive, hpb, hpc, hsout, hcaplim] using hs
  · rw [hsout, ← hf]
    refine List.map_congr_left fun i hi => hobuf i ?_
    have := List.mem_range.1 hi
    omega
  · rwa [hparams, hpb, hpc]

theorem State.StreamEncodes.rleSpush {s t : State} {x : List Byte} (h : s.StreamEncodes x)
    (hl : s.csr.len.toNat ≤ s.params.ibufBytes) (he : exec .rleSpush s = .next t) :
    t.StreamEncodes (x ++ (s.input s.csr.len.toNat).take t.csr.consumed.toNat) := by
  obtain ⟨hp, ha, hs, f, hf, henc⟩ := h
  obtain ⟨-, hcaplim, hcount⟩ := (State.streamLegal_iff_of_active ha).1 hs
  have hcap : 1 ≤ s.params.runCap := by
    obtain ⟨-, -, -, -, h4, -⟩ := id hp
    omega
  obtain ⟨t', he', ⟨-, hconsumed, -⟩, hstore, hactive, hpb, hpc, hsout, hlim, hroom, ⟨hparams, -⟩, -⟩ :=
    rleSpushRunsThePushLoop s _ hp hs ha hl rfl
  obtain rfl : t' = t := by simpa [he] using he'.symm
  obtain ⟨hpcCap, -⟩ := pushResult_fits hp ha hs
  obtain ⟨j, hk, hj⟩ : s.pushResult.EncodesFront s.params.runCap f x (s.input s.len) 0 :=
    pushLoop_encodesFront hcap hcount (by simpa using henc)
  rw [Nat.zero_add] at hk
  refine ⟨hparams ▸ hp, hactive, (State.streamLegal_iff_of_active hactive).2 ⟨hroom, ?_, ?_⟩,
    f ++ s.pushResult.flushed, ?_, ?_⟩
  · rwa [hlim, hparams]
  · rw [hpc, hparams]
    exact hpcCap
  · rw [hsout]
    exact hstore.reads_append hf
  · rw [hparams, hconsumed.trans hk, hpb, hpc]
    exact hj

theorem StreamRun.streamEncodes {s : State} {x : List Byte} (h : StreamRun s x) : s.StreamEncodes x := by
  induction h with
  | start s t hp hm he => exact streamEncodes_rleSinit hp hm he
  | load s t x _ hu ih => exact ih.untouched hu
  | push s t x _ hl he ih => exact ih.rleSpush hl he

/-- Settles O51: the invariant of the stream with nothing to come, the flush of RLE.SFIN, and the round trip. -/
theorem streamEqualsOneShot : Obligations.StreamEqualsOneShot := by
  intro s x hrun
  obtain ⟨hp, ha, hs, f, hf, henc⟩ := hrun.streamEncodes
  obtain ⟨hroom, -, hcount⟩ := (State.streamLegal_iff_of_active ha).1 hs
  obtain ⟨-, -, -, -, h4, h259⟩ := id hp
  have hx := henc.rleEnc_eq hcount
  obtain ⟨t, he, ⟨-, -, -, -, -, -, herr, -⟩, hstore, -, -, -, -, hsout, -⟩ := rleSfinFlushesPendingRun s _ hp hs ha rfl
  refine ⟨by rw [hf, hx, List.map_append], hroom, t, he, herr, ?_, rleRoundTrip _ x h4 h259⟩
  rw [hsout, hx]
  exact hstore.reads_append hf

end Sys2Proof.Machine
end

section
/-! The tables of a byte sequence (42_bwt_inverse R140–R142): the entries of its histogram, of the cumulative form and of
the shortcut, and the LF step in their terms. -/

namespace Sys2Proof.Machine

open Sys2Proof

/-! ## Histogram and cumulative form (R140, R141) -/

theorem histogram_getElem? (d : List Byte) (b : Byte) : (histogram d)[b.toNat]? = some (d.count b) := by
  simp [histogram, b.isLt]

theorem cumFrom_getElem? (acc : Nat) (h : List Nat) {b : Nat} (hb : b < h.length) :
    (cumFrom acc h)[b]? = some (acc + (h.take b).sum) := by
  induction h generalizing acc b with
  | nil => simp at hb
  | cons x h ih =>
    cases b with
    | zero => simp [cumFrom]
    | succ b => simp [cumFrom, ih (acc + x) (Nat.lt_of_succ_lt_succ hb), Nat.add_assoc]

theorem cumulative_getElem? {h : List Nat} {b : Nat} (hb : b < h.length) :
    (cumulative h)[b]? = some (h.take b).sum := by
  rw [cumulative, cumFrom_getElem? 0 h hb, Nat.zero_add]

/-! ## Shortcut (R142) -/

/-- What has been scanned counts with what stands before the position in the rest. -/
theorem shortcutFrom_getElem? (seen : List Byte) {col : List Byte} {i : Nat} {b : Byte} (h : col[i]? = some b) :
    (shortcutFrom seen col)[i]? = some (seen.count b + (col.take i).count b) := by
  induction col generalizing seen i with
  | nil => simp at h
  | cons c col ih =>
    cases i with
    | zero =>
      obtain rfl : c = b := by simpa using h
      simp [shortcutFrom]
    | succ i =>
      rw [List.getElem?_cons_succ] at h
      rw [shortcutFrom, List.getElem?_cons_succ, ih (c :: seen) h, List.take_succ_cons, List.count_cons,
        List.count_cons]
      congr 1
      omega

theorem shortcut_getElem? {col : List Byte} {i : Nat} {b : Byte} (h : col[i]? = some b) :
    (shortcut col)[i]? = some ((col.take i).count b) := by
  rw [shortcut, shortcutFrom_getElem? [] h, List.count_nil, Nat.zero_add]

/-- The occurrence at `i` itself is not among those before it. -/
theorem count_take_lt_count {col : List Byte} {i : Nat} {b : Byte} (h : col[i]? = some b) :
    (col.take i).count b < col.count b := by
  obtain ⟨hi, rfl⟩ := List.getElem?_eq_some_iff.1 h
  calc (col.take i).count col[i]
      < (col.take (i + 1)).count col[i] := by
        rw [← List.take_concat_get' col i hi, List.count_append, List.count_singleton_self]
        exact Nat.lt_succ_self _
    _ ≤ col.count col[i] := (List.take_sublist _ _).count_le _

/-- Settles O53: the entry of the scan, and the occurrence it does not count. -/
theorem shortcutCountsEarlierOccurrences : Obligations.ShortcutCountsEarlierOccurrences := fun _ _ _ h =>
  ⟨shortcut_getElem? h, count_take_lt_count h⟩

/-! ## The LF step (R147) -/

theorem lfStep_eq {col : List Byte} {idx : Nat} {c : Byte} (h : col[idx]? = some c) :
    lfStep col (cumulative (histogram col)) (shortcut col) idx =
      ((histogram col).take c.toNat).sum + (col.take idx).count c := by
  have hc : c.toNat < (histogram col).length := by rw [histogram_length]; exact c.isLt
  simp [lfStep, h, cumulative_getElem? hc, shortcut_getElem? h]

end Sys2Proof.Machine
end

section
/-! The stable counting sort behind R141, R144 and R151: the elements of a list by ascending byte key, those of one key
in their order. The histogram gives the sizes of its buckets, so FIRST + SHORT is the place where an element of the list
stands in it. -/

namespace Sys2Proof.Machine

open Sys2Proof

section
variable {α : Type} (key : α → Byte)

/-- The elements of `l` with key 0, …, n − 1, one bucket per key. -/
def buckets (l : List α) (n : Nat) : List (List α) :=
  (List.range n).map fun b => l.filter fun a => (key a).toNat == b

/-- The elements of `l` by ascending key, those of one key in the order of `l`. -/
def stableSort (l : List α) : List α := (buckets key l 256).flatten

theorem buckets_getElem? (l : List α) (c : Byte) :
    (buckets key l 256)[c.toNat]? = some (l.filter fun a => key a == c) := by
  have hkey : ∀ a, ((key a).toNat == c.toNat) = (key a == c) := fun a => by simp [BitVec.toNat_eq]
  simp [buckets, c.isLt, hkey]

/-- The histogram of the keys counts the buckets. -/
theorem map_length_buckets (l : List α) : (buckets key l 256).map List.length = histogram (l.map key) := by
  refine List.ext_getElem? fun b => ?_
  by_cases hb : b < 256
  · obtain ⟨c, rfl⟩ : ∃ c : Byte, c.toNat = b := ⟨BitVec.ofNat 8 b, Nat.mod_eq_of_lt hb⟩
    rw [List.getElem?_map, buckets_getElem?, histogram_getElem?, List.count_eq_countP, List.countP_map,
      List.countP_eq_length_filter]
    rfl
  · rw [List.getElem?_eq_none (by simpa [buckets] using hb), List.getElem?_eq_none (by rw [histogram_length]; omega)]

/-- The buckets below `n` hold the elements with a key below `n`. -/
theorem flatten_buckets_perm (l : List α) (n : Nat) :
    (buckets key l n).flatten.Perm (l.filter fun a => decide ((key a).toNat < n)) := by
  induction n with
  | zero => simp [buckets]
  | succ n ih =>
    have hsnoc : (buckets key l (n + 1)).flatten =
        (buckets key l n).flatten ++ l.filter fun a => (key a).toNat == n := by
      simp [buckets, List.range_succ]
    have hsplit := List.filter_append_perm (fun a => decide ((key a).toNat < n))
      (l.filter fun a => decide ((key a).toNat < n + 1))
    rw [List.filter_filter, List.filter_filter] at hsplit
    rw [hsnoc]
    refine (ih.append_right _).trans (.trans (.of_eq ?_) hsplit)
    congr 1 <;> refine List.filter_congr fun a _ => ?_
    · rw [← Bool.decide_and, decide_eq_decide]
      omega
    · rw [← decide_not, ← Bool.decide_and, beq_eq_decide, decide_eq_decide]
      omega

theorem stableSort_perm (l : List α) : (stableSort key l).Perm l := by
  have hall : (l.filter fun a => decide ((key a).toNat < 256)) = l :=
    List.filter_eq_self.2 fun a _ => decide_eq_true (key a).isLt
  exact (flatten_buckets_perm key l 256).trans (.of_eq hall)

/-- The sort puts a list in order that is in order among the elements of each key. -/
theorem stableSort_pairwise {R : α → α → Prop} {l : List α}
    (hlt : ∀ a ∈ l, ∀ b ∈ l, (key a).toNat < (key b).toNat → R a b)
    (heq : l.Pairwise fun a b => key a = key b → R a b) : (stableSort key l).Pairwise R := by
  rw [stableSort, buckets, List.pairwise_flatten]
  refine ⟨?_, List.pairwise_map.2 (List.pairwise_lt_range.imp ?_)⟩
  · simp only [List.forall_mem_map]
    intro k _
    refine (heq.filter _).imp_of_mem fun ha hb h => h ?_
    simp only [List.mem_filter, beq_iff_eq] at ha hb
    exact BitVec.eq_of_toNat_eq (ha.2.trans hb.2.symm)
  · intro k k' hk a ha b hb
    simp only [List.mem_filter, beq_iff_eq] at ha hb
    exact hlt a ha.1 b hb.1 (by omega)

/-- Where an element stands in the sort: past those of smaller keys and the earlier ones of its own (R151). -/
theorem stableSort_getElem? {l : List α} {i : Nat} {a : α} (h : l[i]? = some a) :
    (stableSort key l)[((histogram (l.map key)).take (key a).toNat).sum +
      ((l.map key).take i).count (key a)]? = some a := by
  obtain ⟨hi, ha⟩ := List.getElem?_eq_some_iff.1 h
  obtain ⟨hc, hbucket⟩ := List.getElem?_eq_some_iff.1 (buckets_getElem? key l (key a))
  have hl : l = l.take i ++ a :: l.drop (i + 1) := by
    rw [← ha, List.getElem_cons_drop, List.take_append_drop]
  have hsplit : (l.filter fun e => key e == key a) =
      (l.take i).filter (fun e => key e == key a) ++ a :: (l.drop (i + 1)).filter fun e => key e == key a := by
    conv_lhs => rw [hl, List.filter_append, List.filter_cons, if_pos (beq_self_eq_true (key a))]
  have hrank : ((l.map key).take i).count (key a) = ((l.take i).filter fun e => key e == key a).length := by
    rw [← List.map_take, List.count_eq_countP, List.countP_map, List.countP_eq_length_filter]
    rfl
  rw [← map_length_buckets, stableSort, ← List.getElem?_drop, List.drop_sum_flatten, List.drop_eq_getElem_cons hc,
    List.flatten_cons, hbucket, hsplit, hrank, List.append_assoc, List.getElem?_append_right le_rfl, Nat.sub_self]
  rfl

end

/-- The counts of a histogram sum to the length of the sequence (R140). -/
theorem histogram_sum (d : List Byte) : (histogram d).sum = d.length := by
  have h := map_length_buckets id d
  rw [List.map_id] at h
  rw [← h, ← List.length_flatten]
  exact (stableSort_perm id d).length_eq

/-- Settles O52: the counts are the lengths of the buckets, and the cumulative form is a running sum. -/
theorem histogramAndCumulative : Obligations.HistogramAndCumulative := fun d =>
  ⟨histogram_length d, histogram_sum d, histogram_getElem? d,
    fun _ hb => cumulative_getElem? (by rwa [histogram_length])⟩

/-- The place of the LF step in the sorted column holds the byte it started from (R151). -/
theorem stableSort_getElem?_lfStep {α : Type} (key : α → Byte) {l : List α} {i : Nat} {a : α} (h : l[i]? = some a) :
    (stableSort key l)[lfStep (l.map key) (cumulative (histogram (l.map key))) (shortcut (l.map key)) i]? = some a := by
  rw [lfStep_eq (c := key a) (by rw [List.getElem?_map, h, Option.map_some])]
  exact stableSort_getElem? key h

/-- Settles O55: the LF step leads to a place in the sorted column, which is as long as the column. -/
theorem walkStaysInTheColumn : Obligations.WalkStaysInTheColumn := by
  intro col idx c h
  have hplace := stableSort_getElem?_lfStep id h
  rw [List.map_id] at hplace
  obtain ⟨hlt, -⟩ := List.getElem?_eq_some_iff.1 hplace
  refine ⟨by rwa [(stableSort_perm id col).length_eq] at hlt, ?_⟩
  have hrank := count_take_lt_count h
  rw [lfStep_eq h]
  omega

/-! ## The sorted column (R144) -/

theorem sortedFrom_map_range' (f : Nat → Nat) (b n : Nat) :
    sortedFrom b ((List.range' b n).map f) =
      (List.range' b n).flatMap fun i => List.replicate (f i) (BitVec.ofNat 8 i) := by
  induction n generalizing b with
  | zero => rfl
  | succ n ih => simp [List.range'_succ, sortedFrom, ih]

/-- The first column of a sequence's histogram is its bytes sorted (R144). -/
theorem sortedColumn_histogram (d : List Byte) : sortedColumn (histogram d) = stableSort id d := by
  rw [sortedColumn, histogram, List.range_eq_range', sortedFrom_map_range', List.flatMap_def, stableSort, buckets,
    List.range_eq_range']
  congr 1
  refine List.map_congr_left fun b hb => ?_
  have hb256 : b < 256 := by simpa using hb
  rw [← List.filter_beq]
  refine List.filter_congr fun a _ => ?_
  rw [beq_eq_decide, beq_eq_decide, decide_eq_decide, BitVec.toNat_eq, BitVec.toNat_ofNat, Nat.mod_eq_of_lt hb256, id]

theorem sortedColumn_histogram_pairwise (d : List Byte) :
    (sortedColumn (histogram d)).Pairwise fun a b => a.toNat ≤ b.toNat := by
  rw [sortedColumn_histogram]
  refine stableSort_pairwise id (fun _ _ _ _ h => h.le) (List.pairwise_of_forall_mem_list fun a _ b _ h => ?_)
  exact (congrArg BitVec.toNat h).le

end Sys2Proof.Machine
end

section
/-! The BWT commands that pass their checks (42_bwt_inverse R143–R146), and PRIMARY_RANGE. -/

namespace Sys2Proof.Machine

open Sys2Proof

theorem State.len_le_wordMax (s : State) : s.len ≤ wordMax := Nat.le_of_lt_succ s.csr.len.isLt

theorem histogram_input_sum (s : State) : (histogram (s.input s.len)).sum = s.len := by
  rw [histogram_sum, State.input_length]

/-- HIST and FIRST after a command that writes a histogram whose sum fits a register: each count and each running sum
is at most that sum (R140, R141). -/
theorem State.writeHistogram_holds (s : State) {ns : List Nat} (h : ns.sum ≤ wordMax) :
    HoldsNats s.hist (s.writeHistogram ns).hist ns ∧
      HoldsNats s.first (s.writeHistogram ns).first (cumulative ns) := by
  refine ⟨holdsNats_write _ _ fun n hn => (List.le_sum_of_mem hn).trans h, holdsNats_write _ _ fun n hn => ?_⟩
  have hle := cumFrom_le 0 ns n hn
  omega

/-- SHORT after BWT.INV: each entry is at most the length of the column, which LEN holds (R142, R147). -/
theorem State.writeShort_holds (s : State) {col : List Byte} (h : col.length ≤ wordMax) :
    HoldsNats s.short (s.writeShort (shortcut col)).short (shortcut col) := by
  refine holdsNats_write _ _ fun n hn => ?_
  have hle := shortcutFrom_le [] col n hn
  rw [List.length_nil] at hle
  omega

/-- What a store holds below the end of the values stored from 0 on. -/
theorem StoredAt.read?_of_lt {w : Nat} {m m' : Memory w} {vs : List (BitVec w)} (h : StoredAt m m' 0 vs) {i : Nat}
    (hi : i < vs.length) : m'.read? i = vs[i]? := by
  rw [h i, if_pos (by omega), Nat.sub_zero]

/-! ## BWT.HIST (R143) -/

theorem exec_bwtHist_of_inputFits {s : State} (h : s.InputFits) :
    exec .bwtHist s = .next ((s.writeHistogram (histogram (s.input s.len))).complete 0 s.len) := by
  rw [exec, execBwtHist, State.lenOutOfRange_of_inputFits h]
  rfl

/-- Settles O34: the histogram of the input sums to LEN, so its tables fit the registers. -/
theorem bwtHistCountsInput : Obligations.BwtHistCountsInput := by
  intro s _ hl
  have hsum : (histogram (s.input s.len)).sum ≤ wordMax := (histogram_input_sum s).trans_le s.len_le_wordMax
  obtain ⟨hhist, hfirst⟩ := s.writeHistogram_holds hsum
  exact ⟨_, exec_bwtHist_of_inputFits hl, State.complete_succeeded (Nat.zero_le _) s.len_le_wordMax rfl, hhist, hfirst,
    rfl, rfl, .refl s, ⟨rfl, rfl, rfl, rfl, rfl⟩, ⟨rfl, rfl, rfl⟩⟩

/-! ## BWT.CSORT (R144, R145) -/

theorem exec_bwtCsort_input {s : State} (h : s.InputFits) :
    exec (.bwtCsort true) s = .next (s.finishCsort (histogram (s.input s.len)) s.len) := by
  rw [exec, execBwtCsort, if_pos rfl, State.lenOutOfRange_of_inputFits h, if_neg Bool.false_ne_true]

theorem exec_bwtCsort_hist (s : State) : exec (.bwtCsort false) s = .next (s.finishCsort s.histCounts 0) := by
  rw [exec, execBwtCsort, if_neg Bool.false_ne_true]

/-- The end of BWT.CSORT when its output fits: the tables of its histogram and the sorted bytes are all it writes. -/
theorem State.finishCsort_of_le {s : State} (hp : s.params.Legal) {ns : List Nat} (h : ns.sum ≤ s.params.obufBytes)
    {consumed : Nat} (hc : consumed ≤ wordMax) :
    Succeeded s (s.finishCsort ns consumed) ns.sum consumed ∧ HoldsNats s.hist (s.finishCsort ns consumed).hist ns ∧
      HoldsNats s.first (s.finishCsort ns consumed).first (cumulative ns) ∧
      StoredAt s.obuf (s.finishCsort ns consumed).obuf 0 (sortedColumn ns) ∧
      (s.finishCsort ns consumed).short = s.short ∧ SameOperands s (s.finishCsort ns consumed) ∧
      SameStream s (s.finishCsort ns consumed) ∧ SameMtf s (s.finishCsort ns consumed) := by
  obtain ⟨-, -, -, ho, -⟩ := hp
  obtain ⟨hhist, hfirst⟩ := s.writeHistogram_holds (h.trans ho)
  have hend : s.finishCsort ns consumed =
      ((s.writeHistogram ns).writeObuf 0 (sortedColumn ns)).complete ns.sum consumed := by
    rw [State.finishCsort, State.outputTooLong_of_le h]
    rfl
  rw [hend]
  exact ⟨State.complete_succeeded (h.trans ho) hc rfl, hhist, hfirst, storedAt_write _ _ _, rfl, .refl s,
    ⟨rfl, rfl, rfl, rfl, rfl⟩, ⟨rfl, rfl, rfl⟩⟩

/-- Settles O35: both forms are `finishCsort`, of the histogram of the input or of the counts in HIST. -/
theorem bwtCsortWritesSortedBytes : Obligations.BwtCsortWritesSortedBytes := by
  intro s h hs hp hcounts hsum
  cases h with
  | true =>
    obtain ⟨hl, rfl⟩ := hcounts
    exact ⟨_, exec_bwtCsort_input hl, State.finishCsort_of_le hp hsum s.len_le_wordMax⟩
  | false =>
    obtain rfl : hs = s.histCounts := hcounts
    exact ⟨_, exec_bwtCsort_hist s, State.finishCsort_of_le hp hsum (Nat.zero_le _)⟩

/-- Settles O54: the sorted column of the input's histogram is the stable sort of the input. -/
theorem csortSortsTheInput : Obligations.CsortSortsTheInput := by
  intro s hp hl ho
  have hsum : (histogram (s.input s.len)).sum = s.len := histogram_input_sum s
  obtain ⟨t, he, ⟨-, -, -, -, -, -, herr, -⟩, -, -, hout, -⟩ :=
    bwtCsortWritesSortedBytes s true (histogram (s.input s.len)) hp ⟨hl, rfl⟩ (hsum.trans_le ho)
  refine ⟨t, sortedColumn (histogram (s.input s.len)), he, herr, ?_, sortedColumn_histogram_pairwise _, fun i hi => ?_⟩
  · rw [sortedColumn_histogram]
    exact stableSort_perm id _
  · exact hout.read?_of_lt (by rwa [sortedColumn_length, hsum])

/-! ## BWT.INV (R146, R147) -/

/-- PRIMARY names a row of the column, or there is none (90_conflicts C3). -/
abbrev State.PrimaryInRange (s : State) : Prop := 0 < s.len → s.csr.primary.toNat < s.len

theorem exec_bwtInv_of_checks {s : State} (hl : s.InputFits) (hp : s.PrimaryInRange)
    (ho : s.len ≤ s.params.obufBytes) : exec .bwtInv s = .next (s.bwtInvData.complete s.len s.len) := by
  have hrow : ¬ (0 < s.len ∧ s.len ≤ s.csr.primary.toNat) := fun ⟨hpos, hle⟩ => Nat.not_lt.2 hle (hp hpos)
  rw [exec, execBwtInv, State.lenOutOfRange_of_inputFits hl, if_neg hrow, State.outputTooLong_of_le ho]
  rfl

/-- Settles O36: past its checks the command writes the tables and the block of the column, and all fit. -/
theorem bwtInvWritesBlockAndTables : Obligations.BwtInvWritesBlockAndTables := by
  intro s col _ hl hp ho hcol
  obtain rfl : col = s.input s.len := hcol
  have hlen : (s.input s.len).length = s.len := State.input_length s s.len
  obtain ⟨hhist, hfirst⟩ := s.writeHistogram_holds ((histogram_input_sum s).trans_le s.len_le_wordMax)
  exact ⟨_, exec_bwtInv_of_checks hl hp ho, State.complete_succeeded s.len_le_wordMax s.len_le_wordMax rfl, hhist,
    hfirst, s.writeShort_holds (hlen.trans_le s.len_le_wordMax), storedAt_write _ _ _,
    (inverseBwt_length _ _).trans hlen, .refl s, ⟨rfl, rfl, rfl, rfl, rfl⟩, ⟨rfl, rfl, rfl⟩⟩

/-- Settles O43: the check of PRIMARY stands before that of the output length. -/
theorem primaryRangeErrors : Obligations.PrimaryRangeErrors := by
  intro s hl hpos hle
  have he : exec .bwtInv s = .next (s.errorCompletion .primaryRange s.csr.primary) := by
    rw [exec, execBwtInv, State.lenOutOfRange_of_inputFits hl,
      if_pos (show 0 < s.len ∧ s.len ≤ s.csr.primary.toNat from ⟨hpos, hle⟩)]
    rfl
  exact ⟨_, he, State.errorCompletion_failedPrecisely s _ _⟩

end Sys2Proof.Machine
end

section
/-! BWT.INV gives back the block of any reference transform (42_bwt_inverse R149–R151). Rotating each sorted row one byte
to the right and sorting the results stably by their first byte gives the sorted rows again, ties and all; so the LF step
leads from a row to one that reads as its rotation to the right, and the walk reads the row it starts from backwards. -/

namespace Sys2Proof.Machine

open Sys2Proof

/-! ## The order of byte sequences (00_scope R9) -/

theorem lexLe_cons_iff {a b : Byte} {as bs : List Byte} :
    lexLe (a :: as) (b :: bs) = true ↔ a.toNat < b.toNat ∨ (a = b ∧ lexLe as bs = true) := by
  simp [lexLe]

theorem lexLe_antisymm {as bs : List Byte} (h : lexLe as bs = true) (h' : lexLe bs as = true) : as = bs := by
  induction as generalizing bs with
  | nil =>
    cases bs with
    | nil => rfl
    | cons b bs => simp [lexLe] at h'
  | cons a as ih =>
    cases bs with
    | nil => simp [lexLe] at h
    | cons b bs =>
      obtain hlt | ⟨rfl, hle⟩ := lexLe_cons_iff.1 h
      · obtain hlt' | ⟨rfl, -⟩ := lexLe_cons_iff.1 h'
        · exact absurd hlt' hlt.asymm
        · exact absurd hlt (lt_irrefl _)
      · obtain hlt | ⟨-, hle'⟩ := lexLe_cons_iff.1 h'
        · exact absurd hlt (lt_irrefl _)
        · rw [ih hle hle']

/-- Of two sequences in order, equally long starts are in order, whatever follows them. -/
theorem lexLe_of_append {as bs cs ds : List Byte} (hlen : as.length = bs.length)
    (h : lexLe (as ++ cs) (bs ++ ds) = true) : lexLe as bs = true := by
  induction as generalizing bs with
  | nil => rfl
  | cons a as ih =>
    cases bs with
    | nil => simp at hlen
    | cons b bs =>
      refine lexLe_cons_iff.2 ((lexLe_cons_iff.1 h).imp_right fun ⟨hab, hle⟩ => ⟨hab, ih ?_ hle⟩)
      simpa using hlen

/-! ## Rotating one byte to the right (R151) -/

/-- The rotation of an `n`-byte block that starts one byte before rotation `k`, cyclically. -/
def prevRotation (n k : Nat) : Nat := (k + n - 1) % n

theorem prevRotation_lt {n k : Nat} (hk : k < n) : prevRotation n k < n := Nat.mod_lt _ (by omega)

/-- Every rotation of the block is rotated to the right of exactly one. -/
theorem map_prevRotation_perm (n : Nat) : ((List.range n).map (prevRotation n)).Perm (List.range n) := by
  have hrotate : (List.range n).map (prevRotation n) = (List.range n).rotate (n - 1) := by
    refine List.ext_getElem (by simp) fun k hk _ => ?_
    have hkn : k < n := by simpa using hk
    simp [List.getElem_rotate, prevRotation, Nat.add_sub_assoc (show 1 ≤ n by omega)]
  rw [hrotate]
  exact List.rotate_perm _ _

@[simp] theorem rotation_zero (x : List Byte) : rotation x 0 = x := by simp [rotation]

theorem rotation_length (x : List Byte) (k : Nat) : (rotation x k).length = x.length := by
  simp only [rotation, List.length_append, List.length_drop, List.length_take]
  omega

/-- Rotated back to the left by one byte, the rotation to the right of rotation `k` is rotation `k` again. -/
theorem rotation_prevRotation_succ {x : List Byte} {k : Nat} (hk : k < x.length) :
    rotation x (prevRotation x.length k + 1) = rotation x k := by
  cases k with
  | zero =>
    have hlast : prevRotation x.length 0 + 1 = x.length := by
      rw [prevRotation, Nat.zero_add, Nat.mod_eq_of_lt (by omega)]
      omega
    simp [rotation, hlast]
  | succ k =>
    have hprev : prevRotation x.length (k + 1) = k := by
      rw [prevRotation, Nat.add_right_comm, Nat.add_sub_cancel, Nat.add_mod_right, Nat.mod_eq_of_lt (by omega)]
    rw [hprev]

/-- Rotation `k` ends with the byte that the rotation to its right begins with; the rest of the two is the same. -/
theorem rotation_eq_snoc {x : List Byte} {k : Nat} (hk : k < x.length) :
    ∃ rest c, x.getD (prevRotation x.length k) 0#8 = c ∧ rest.length + 1 = x.length ∧
      rotation x k = rest ++ [c] ∧ rotation x (prevRotation x.length k) = c :: rest := by
  have hj := prevRotation_lt hk
  rw [← rotation_prevRotation_succ hk]
  generalize prevRotation x.length k = j at hj
  refine ⟨x.drop (j + 1) ++ x.take j, x[j], by simp [hj], by simp; omega, ?_, ?_⟩
  · rw [rotation, ← List.take_concat_get' x j hj, List.append_assoc]
  · rw [rotation, List.drop_eq_getElem_cons hj, List.cons_append]

/-! ## The LF step on sorted rows (R150, R151) -/

/-- The rows of the sorted rotation matrix of `x`: `order` lists the rotations in order, ties in any order (00_scope
R9). -/
abbrev SortedRows (x : List Byte) (order : List Nat) : Prop :=
  order.Perm (List.range x.length) ∧ order.Pairwise fun i j => lexLe (rotation x i) (rotation x j) = true

/-- The rotations to the right of the rows, row by row. -/
abbrev rightRotations (x : List Byte) (order : List Nat) : List Nat := order.map (prevRotation x.length)

/-- The column of last bytes: the first bytes of the rotations to the right. -/
abbrev lastColumn (x : List Byte) (order : List Nat) : List Byte :=
  (rightRotations x order).map fun k => x.getD k 0#8

section
variable {x : List Byte} {order : List Nat} (h : SortedRows x order)
include h

theorem SortedRows.length_eq : order.length = x.length := by
  rw [h.1.length_eq, List.length_range]

theorem SortedRows.lt_of_mem {k : Nat} (hk : k ∈ order) : k < x.length := List.mem_range.1 (h.1.mem_iff.1 hk)

theorem SortedRows.rightRotations_perm : (rightRotations x order).Perm order :=
  ((h.1.map _).trans (map_prevRotation_perm _)).trans h.1.symm

/-- Sorted stably by their first byte, the rotations to the right are in order: two of one first byte are in the order
of what follows, in which the rows are. -/
theorem SortedRows.stableSort_rightRotations_pairwise :
    (stableSort (fun k => x.getD k 0#8) (rightRotations x order)).Pairwise
      fun i j => lexLe (rotation x i) (rotation x j) = true := by
  refine stableSort_pairwise _ ?_ (List.pairwise_map.2 (h.2.imp_of_mem ?_))
  · simp only [List.forall_mem_map]
    intro i hi j hj hlt
    obtain ⟨as, a, ha, -, -, hra⟩ := rotation_eq_snoc (h.lt_of_mem hi)
    obtain ⟨bs, b, hb, -, -, hrb⟩ := rotation_eq_snoc (h.lt_of_mem hj)
    rw [ha, hb] at hlt
    rw [hra, hrb]
    exact lexLe_cons_iff.2 (.inl hlt)
  · intro i j hi hj hle heq
    obtain ⟨as, a, ha, hla, hia, hra⟩ := rotation_eq_snoc (h.lt_of_mem hi)
    obtain ⟨bs, b, hb, hlb, hjb, hrb⟩ := rotation_eq_snoc (h.lt_of_mem hj)
    obtain rfl : a = b := by rw [← ha, heq, hb]
    rw [hia, hjb] at hle
    rw [hra, hrb]
    exact lexLe_cons_iff.2 (.inr ⟨rfl, lexLe_of_append (by omega) hle⟩)

/-- That sort reads as the sorted rows: both are the rotations of the block in order (R150). -/
theorem SortedRows.map_rotation_stableSort :
    (stableSort (fun k => x.getD k 0#8) (rightRotations x order)).map (rotation x) = order.map (rotation x) :=
  List.Perm.eq_of_pairwise (fun _ _ _ _ => lexLe_antisymm)
    (List.pairwise_map.2 h.stableSort_rightRotations_pairwise) (List.pairwise_map.2 h.2)
    (((stableSort_perm _ _).trans h.rightRotations_perm).map _)

/-- The LF step leads from a row to one that reads as its rotation to the right (R150, R151). -/
theorem SortedRows.rotation_lfStep {i k : Nat} (hk : order[i]? = some k) :
    ∃ k', order[lfStep (lastColumn x order) (cumulative (histogram (lastColumn x order)))
        (shortcut (lastColumn x order)) i]? = some k' ∧ rotation x k' = rotation x (prevRotation x.length k) := by
  have hright : (rightRotations x order)[i]? = some (prevRotation x.length k) := by
    rw [List.getElem?_map, hk, Option.map_some]
  have hplace := congrArg (Option.map (rotation x)) (stableSort_getElem?_lfStep (fun k => x.getD k 0#8) hright)
  rw [← List.getElem?_map, h.map_rotation_stableSort, List.getElem?_map, Option.map_some] at hplace
  exact Option.map_eq_some_iff.1 hplace

/-- `m` rounds of the walk put the last `m` bytes of the row they start from in front of the output (R147). -/
theorem SortedRows.lfLoop_eq {m i k : Nat} (hm : m ≤ x.length) (hk : order[i]? = some k) (out : List Byte) :
    lfLoop (lastColumn x order) (cumulative (histogram (lastColumn x order))) (shortcut (lastColumn x order)) m i out =
      (rotation x k).drop (x.length - m) ++ out := by
  induction m generalizing i k out with
  | zero => rw [lfLoop, Nat.sub_zero, List.drop_eq_nil_of_le (rotation_length x k).le, List.nil_append]
  | succ m ih =>
    obtain ⟨rest, c, hc, hlen, hrow, hright⟩ := rotation_eq_snoc (h.lt_of_mem (List.mem_of_getElem? hk))
    obtain ⟨k', hk', hrow'⟩ := h.rotation_lfStep hk
    have hbyte : (lastColumn x order).getD i 0#8 = c := by simp [lastColumn, hk, ← hc]
    have hdrop : x.length - m = x.length - (m + 1) + 1 := by omega
    rw [lfLoop, hbyte, ih (by omega) hk', hrow', hright, hrow, hdrop, List.drop_succ_cons,
      List.drop_append_of_le_length (by omega), List.append_assoc, List.singleton_append]

/-- The walk from a row of the unrotated block gives the block (R149). -/
theorem SortedRows.inverseBwt_eq {p : Nat} (hp : order[p]? = some 0) : inverseBwt (lastColumn x order) p = x := by
  have hlen : (lastColumn x order).length = x.length := by simpa using h.length_eq
  rw [inverseBwt, hlen, h.lfLoop_eq le_rfl hp, Nat.sub_self, rotation_zero, List.drop_zero, List.append_nil]

end

/-! ## BWT.INV of a reference transform (R149) -/

theorem IsBwt.inverseBwt_eq {x col : List Byte} {p : Nat} (h : IsBwt x col p) : inverseBwt col p = x := by
  obtain ⟨rfl, rfl, -⟩ | ⟨order, hperm, hsorted, rfl, hp⟩ := h
  · rfl
  · have hcol : order.map (fun k => x.getD (prevRotation x.length k) 0#8) = lastColumn x order := by
      rw [lastColumn, List.map_map]
      rfl
    exact hcol ▸ SortedRows.inverseBwt_eq ⟨hperm, hsorted⟩ hp

/-- The primary index of a block that is not empty is a row (00_scope R9). -/
theorem IsBwt.primary_lt {x col : List Byte} {p : Nat} (h : IsBwt x col p) (hx : 0 < x.length) : p < x.length := by
  obtain ⟨rfl, -⟩ | ⟨order, hperm, -, -, hp⟩ := h
  · simp at hx
  · obtain ⟨hlt, -⟩ := List.getElem?_eq_some_iff.1 hp
    rwa [hperm.length_eq, List.length_range] at hlt

/-- Settles O56: the checks pass, and the walk gives back the block. -/
theorem inverseBwtRestoresTheBlock : Obligations.InverseBwtRestoresTheBlock := by
  intro s x col hbwt hp hlen hi ho hcol
  obtain ⟨t, he, ⟨hout, -, -, -, -, -, herr, -⟩, -, -, -, hblock, -⟩ :=
    bwtInvWritesBlockAndTables s col hp (hlen.trans_le hi)
      (fun hpos => hlen ▸ hbwt.primary_lt (hlen ▸ hpos)) (hlen.trans_le ho) hcol.symm
  rw [hbwt.inverseBwt_eq] at hblock
  exact ⟨t, he, herr, hout.trans hlen, fun i hi => hblock.read?_of_lt hi⟩

end Sys2Proof.Machine
end

section
/-! The per-symbol MTF steps: where the encoder finds its byte, what moving an entry to the front does to each place,
and that a decoder undoes an encoder over a whole sequence (43_mtf R160, R166, R167). -/

namespace Sys2Proof.Machine

open Sys2Proof

/-! ## The place of a byte in a permutation (10_state R47) -/

/-- A table that holds no byte twice holds every byte, since there are as many bytes as places. -/
theorem mem_toList_of_nodup {t : MtfTable} (h : t.toList.Nodup) (b : Byte) : b ∈ t.toList := by
  have hcard : t.toList.toFinset.card = Fintype.card Byte := by
    rw [List.toFinset_card_of_nodup h, Vector.length_toList, ← FinEnum.card_eq_fintypeCard, FinEnum.card_bitVec]
    rfl
  rw [← List.mem_toFinset, Finset.eq_univ_of_card _ hcard]
  exact Finset.mem_univ b

theorem position_toNat {t : MtfTable} (h : t.toList.Nodup) (b : Byte) :
    (t.position b).toNat = t.toList.idxOf b := by
  have hlt : t.toList.idxOf b < t.toList.length := List.idxOf_lt_length_iff.2 (mem_toList_of_nodup h b)
  rw [Vector.length_toList] at hlt
  exact Nat.mod_eq_of_lt hlt

theorem getElem?_position {t : MtfTable} (h : t.toList.Nodup) (b : Byte) : t[(t.position b).toNat]? = some b := by
  rw [position_toNat h, ← Vector.getElem?_toList, List.getElem?_idxOf (mem_toList_of_nodup h b)]

/-! ## Moving an entry to the front (R160) -/

theorem getElem?_toNat (t : MtfTable) (j : Byte) : t[j.toNat]? = some t[j.toNat] :=
  Vector.getElem?_eq_getElem j.isLt

theorem moveToFront_toList (t : MtfTable) (j : Byte) :
    (t.moveToFront j).toList = t[j.toNat] :: t.toList.eraseIdx j.toNat := rfl

theorem moveToFront_getElem?_zero (t : MtfTable) (j : Byte) : (t.moveToFront j)[0]? = some t[j.toNat] := by
  rw [← Vector.getElem?_toList, moveToFront_toList, List.getElem?_cons_zero]

theorem moveToFront_getElem?_succ (t : MtfTable) (j : Byte) (q : Nat) :
    (t.moveToFront j)[q + 1]? = if q < j.toNat then t[q]? else t[q + 1]? := by
  rw [← Vector.getElem?_toList, moveToFront_toList, List.getElem?_cons_succ, List.getElem?_eraseIdx,
    Vector.getElem?_toList, Vector.getElem?_toList]

theorem moveToFront_getElem?_of_le (t : MtfTable) (j : Byte) {q : Nat} (hq : 1 ≤ q) (hj : q ≤ j.toNat) :
    (t.moveToFront j)[q]? = t[q - 1]? := by
  obtain ⟨q, rfl⟩ := Nat.exists_eq_add_of_le' hq
  rw [moveToFront_getElem?_succ, if_pos (show q < j.toNat from hj), Nat.add_sub_cancel]

theorem moveToFront_getElem?_of_lt (t : MtfTable) (j : Byte) {q : Nat} (hj : j.toNat < q) :
    (t.moveToFront j)[q]? = t[q]? := by
  obtain ⟨q, rfl⟩ := Nat.exists_eq_add_of_le' (show 1 ≤ q by omega)
  rw [moveToFront_getElem?_succ, if_neg (by omega)]

/-- Settles O57: both steps are `moveToFront`, the encoder's at the place of its byte. -/
theorem mtfStepsMoveToFront : Obligations.MtfStepsMoveToFront := fun t b j h =>
  ⟨getElem?_position h b, rfl, getElem?_toNat t j, moveToFront_getElem?_zero t j,
    fun _ hq hj => moveToFront_getElem?_of_le t j hq hj, fun _ hj => moveToFront_getElem?_of_lt t j hj,
    mtfEncSym_nodup h b, mtfDecSym_nodup h j⟩

/-! ## Decoding undoes encoding (R167) -/

/-- The decoder reads the encoder's byte at the distance and makes the same move. -/
theorem mtfDecSym_mtfEncSym {t : MtfTable} (h : t.toList.Nodup) (b : Byte) :
    mtfDecSym t (mtfEncSym t b).1 = (b, (mtfEncSym t b).2) :=
  Prod.ext (Option.some.inj ((getElem?_toNat t _).symm.trans (getElem?_position h b))) rfl

theorem mtfBatch_mtfDecSym_mtfEncSym {t : MtfTable} (h : t.toList.Nodup) (x : List Byte) :
    mtfBatch mtfDecSym t (mtfBatch mtfEncSym t x).1 = (x, (mtfBatch mtfEncSym t x).2) := by
  induction x generalizing t with
  | nil => rfl
  | cons b x ih => simp only [mtfBatch, mtfDecSym_mtfEncSym h, ih (mtfEncSym_nodup h b)]

end Sys2Proof.Machine
end

section
/-! The MTF commands that pass their checks (43_mtf R161–R165), and the round trip command by command (R167). -/

namespace Sys2Proof.Machine

open Sys2Proof

/-! ## MTF.INIT (R161) -/

theorem identity_getElem (i : Fin 256) : MtfTable.identity[i] = BitVec.ofNat 8 i := by
  simp [MtfTable.identity]

/-- A table under a flag of MTF.INIT. -/
theorem batchTable_entries (f : Bool) (t : MtfTable) :
    if f = true then ∀ i : Fin 256, (batchTable f t)[i] = BitVec.ofNat 8 i else batchTable f t = t := by
  cases f with
  | true => exact identity_getElem
  | false => rfl

/-- Settles O37. -/
theorem mtfInitSetsIdentity : Obligations.MtfInitSetsIdentity := fun s e d =>
  ⟨_, rfl, State.complete_succeeded (Nat.zero_le _) (Nat.zero_le _) rfl, batchTable_entries e s.tblE,
    batchTable_entries d s.tblD, rfl, .refl s, ⟨rfl, rfl, rfl, rfl, rfl⟩, ⟨rfl, rfl, rfl⟩, rfl⟩

/-! ## MTF.ENC and MTF.DEC (R162, R163) -/

theorem exec_mtfEnc_of_fits {s : State} (i : Bool) (hl : s.InputFits) (ho : s.len ≤ s.params.obufBytes) :
    exec (.mtfEnc i) s = .next (((s.setTblE (s.mtfResult mtfEncSym i s.tblE).2).writeObuf 0
      (s.mtfResult mtfEncSym i s.tblE).1).complete s.len s.len) := by
  rw [exec, execMtfEnc, State.lenOutOfRange_of_inputFits hl, State.outputTooLong_of_le ho]
  rfl

theorem exec_mtfDec_of_fits {s : State} (i : Bool) (hl : s.InputFits) (ho : s.len ≤ s.params.obufBytes) :
    exec (.mtfDec i) s = .next (((s.setTblD (s.mtfResult mtfDecSym i s.tblD).2).writeObuf 0
      (s.mtfResult mtfDecSym i s.tblD).1).complete s.len s.len) := by
  rw [exec, execMtfDec, State.lenOutOfRange_of_inputFits hl, State.outputTooLong_of_le ho]
  rfl

theorem mtfResult_length (s : State) (f : MtfTable → Byte → Byte × MtfTable) (i : Bool) (t : MtfTable) :
    (s.mtfResult f i t).1.length = s.len :=
  (mtfBatch_length f _ _).trans (s.input_length _)

/-- Settles O38: past its checks the command writes the distances, as many as LEN, and TBL_E. -/
theorem mtfEncWritesDistances : Obligations.MtfEncWritesDistances := by
  intro s i tbl _ hl ho htbl
  obtain rfl : tbl = batchTable i s.tblE := htbl
  exact ⟨_, exec_mtfEnc_of_fits i hl ho, State.complete_succeeded s.len_le_wordMax s.len_le_wordMax rfl,
    storedAt_write _ _ _, mtfResult_length s _ _ _, rfl, rfl, rfl, .refl s, ⟨rfl, rfl, rfl, rfl, rfl⟩,
    ⟨rfl, rfl, rfl⟩⟩

/-- Settles O39: past its checks the command writes the bytes, as many as LEN, and TBL_D. -/
theorem mtfDecWritesBytes : Obligations.MtfDecWritesBytes := by
  intro s i tbl _ hl ho htbl
  obtain rfl : tbl = batchTable i s.tblD := htbl
  exact ⟨_, exec_mtfDec_of_fits i hl ho, State.complete_succeeded s.len_le_wordMax s.len_le_wordMax rfl,
    storedAt_write _ _ _, mtfResult_length s _ _ _, rfl, rfl, rfl, .refl s, ⟨rfl, rfl, rfl, rfl, rfl⟩,
    ⟨rfl, rfl, rfl⟩⟩

/-- The input block of a state whose IBUF holds the bytes `xs` from its start on: none of them is a draw. -/
theorem State.input_eq_of_read? {s : State} {n : Nat} {xs : List Byte} (hn : xs.length = n)
    (h : ∀ i < n, s.ibuf.read? i = xs[i]?) : s.input n = xs := by
  subst hn
  refine List.ext_getElem (s.input_length _) fun i _ hi => ?_
  simp [State.input, State.ibufByte, readByte, h i hi, hi]

/-- Settles O58: in the second part MTF.DEC reads what MTF.ENC has written, and both start from the identity. -/
theorem mtfRoundTrip : Obligations.MtfRoundTrip := by
  refine ⟨fun _ x h => mtfBatch_mtfDecSym_mtfEncSym h x, fun s t u hp hl ho he hparams hlen hcopy => ?_⟩
  obtain ⟨t', he', -, hdist, hdistLen, -⟩ := mtfEncWritesDistances s true MtfTable.identity hp hl ho rfl
  obtain rfl : t = t' := Host.Outcome.next.inj (he.symm.trans he')
  have hinput : u.input u.csr.len.toNat = (mtfBatch mtfEncSym MtfTable.identity (s.input s.csr.len.toNat)).1 := by
    rw [hlen]
    exact State.input_eq_of_read? hdistLen fun i hi =>
      (hcopy i hi).trans (hdist.read?_of_lt (hi.trans_eq hdistLen.symm))
  obtain ⟨v, hd, ⟨-, -, -, -, -, -, herr, -⟩, hbytes, -⟩ :=
    mtfDecWritesBytes u true MtfTable.identity (hparams ▸ hp) (by rwa [hparams, hlen]) (by rwa [hparams, hlen]) rfl
  rw [hinput, mtfBatch_mtfDecSym_mtfEncSym identity_nodup] at hbytes
  exact ⟨v, hd, herr, fun i hi => hbytes.read?_of_lt (hi.trans_eq (s.input_length _).symm)⟩

/-! ## MTF.ENC1 and MTF.DEC1 (R164, R165) -/

/-- The table after encoding `b`: `b` in front of the others (R160). -/
theorem mtfEncSym_toList {t : MtfTable} (h : t.toList.Nodup) (b : Byte) :
    (mtfEncSym t b).2.toList = b :: t.toList.erase b := by
  have hfront : t[(t.position b).toNat] = b := (Prod.ext_iff.1 (mtfDecSym_mtfEncSym h b)).1
  have hplace : t.toList.idxOf b = (t.position b).toNat := (position_toNat h b).symm
  rw [mtfEncSym, moveToFront_toList, hfront, List.erase_eq_eraseIdx_of_idxOf hplace]

/-- Settles O40: each command is its per-symbol step, and `complete`. -/
theorem mtfOneSymbolCommands : Obligations.MtfOneSymbolCommands := fun s sym =>
  ⟨fun h => ⟨_, rfl, State.complete_succeeded (Nat.zero_le _) (Nat.zero_le _) rfl, getElem?_position h sym,
      mtfEncSym_toList h sym, rfl, .refl s, ⟨rfl, rfl, rfl, rfl, rfl⟩, ⟨rfl, rfl, rfl⟩, rfl⟩,
    ⟨_, rfl, State.complete_succeeded (Nat.zero_le _) (Nat.zero_le _) rfl, getElem?_toNat s.tblD sym,
      moveToFront_toList s.tblD sym, rfl, .refl s, ⟨rfl, rfl, rfl, rfl, rfl⟩, ⟨rfl, rfl, rfl⟩, rfl⟩⟩

end Sys2Proof.Machine
end

section
/-! The interrupt (60_exceptions R190, R191): every completion step raises DONE_IP, and ERR_IP with an error, and a host
write to IRQ_STATUS clears them. -/

namespace Sys2Proof.Machine

open Sys2Proof

/-! ## The pending bits after a completion step (R190) -/

theorem State.finishRle_irqStatus (s : State) (out : List Byte) :
    (s.finishRle out).csr.irqStatus = s.csr.irqStatus.raised (s.finishRle out).csr.status.err := by
  rw [State.finishRle]
  split_ifs <;> rfl

theorem State.finishCsort_irqStatus (s : State) (ns : List Nat) (consumed : Nat) :
    (s.finishCsort ns consumed).csr.irqStatus =
      s.csr.irqStatus.raised (s.finishCsort ns consumed).csr.status.err := by
  rw [State.finishCsort]
  split_ifs <;> rfl

/-- Each end of a command, successful or not, raises the pending bits, and nothing a command writes before it touches
them. -/
theorem exec_irqStatus {i : Instr} {s t : State} (h : exec i s = .next t) :
    t.csr.irqStatus = s.csr.irqStatus.raised t.csr.status.err := by
  cases i with
  | nop | mtfInit _ _ | mtfEnc1 _ | mtfDec1 _ =>
    cases h
    rfl
  | rleSinit | rleSpush | rleSfin | bwtHist | bwtInv | mtfEnc _ | mtfDec _ =>
    cases h
    split_ifs <;> rfl
  | rleEnc | rleDec =>
    cases h
    split_ifs
    · rfl
    · exact s.finishRle_irqStatus _
  | bwtCsort b =>
    cases h
    split_ifs
    · rfl
    · exact s.finishCsort_irqStatus _ _
    · exact s.finishCsort_irqStatus _ _

theorem engineStep_irqStatus {s t : State} (h : engineStep s = .next t) :
    t.csr.irqStatus = s.csr.irqStatus.raised t.csr.status.err := by
  cases hd : decode s.csr.cmd with
  | error e =>
    rw [engineStep_of_decodeError hd] at h
    cases h
    rfl
  | ok i =>
    rw [engineStep_of_decode hd] at h
    exact exec_irqStatus h

/-- Settles O25: `irq` is its formula, and a completion step raises the pending bits and keeps the operands, IRQ_EN
among them. -/
theorem interruptFollowsPendingAndEnable : Obligations.InterruptFollowsPendingAndEnable := by
  refine ⟨fun s => by simp [State.irq], fun s t h => ?_⟩
  obtain ⟨-, -, -, -, -, -, -, -, hen, -⟩ := engineStep_completed h
  rw [engineStep_irqStatus h]
  exact ⟨rfl, rfl, hen⟩

/-! ## Acknowledge (R191) -/

/-- Settles O17: the write reaches IRQ_STATUS alone, and what a completion step raises does not depend on what was
pending before it. -/
theorem acknowledgeClearsWrittenBits : Obligations.AcknowledgeClearsWrittenBits := by
  intro s v
  refine ⟨_, hostWrite_csr s (loc := .irqStatus) rfl rfl v, rfl, rfl, rfl, fun hdone herr => ?_, fun u hu => ?_⟩
  · rw [State.irq, hdone, herr]
    rfl
  · rw [engineStep_irqStatus hu]
    exact ⟨rfl, fun he => by rw [he, IrqBits.raised_err, Bool.or_true]⟩

end Sys2Proof.Machine
end

section
/-! The errors of the commands (60_exceptions R180–R183): each check that fails ends the command in its error
completion, before anything is written. -/

namespace Sys2Proof.Machine

open Sys2Proof

theorem State.lenOutOfRange_of_lt {s : State} (h : s.params.ibufBytes < s.len) : s.lenOutOfRange = true :=
  decide_eq_true h

theorem State.outputTooLong_of_lt {s : State} {n : Nat} (h : s.params.obufBytes < n) : s.outputTooLong n = true :=
  decide_eq_true h

/-! ## RLE_NOT_ACTIVE and RLE_MAX_RANGE -/

/-- Without a stream RLE.SPUSH and RLE.SFIN end before they read LEN (R183). -/
theorem exec_of_not_rleActive {s : State} (ha : s.csr.status.rleActive = false) {i : Instr}
    (hi : i ∈ [Instr.rleSpush, Instr.rleSfin]) :
    exec i s = .next (s.errorCompletion .rleNotActive s.csr.cmd) := by
  have hcheck : (!s.csr.status.rleActive) = true := by rw [ha]; rfl
  fin_cases hi <;> exact congrArg Host.Outcome.next (if_pos hcheck)

theorem exec_rleSinit_of_lt {s : State} (h : s.params.obufBytes < s.csr.rleMax.toNat) :
    exec .rleSinit s = .next (s.errorCompletion .rleMaxRange s.csr.rleMax) :=
  congrArg Host.Outcome.next (if_pos (State.outputTooLong_of_lt h))

/-- Settles O42. -/
theorem streamErrors : Obligations.StreamErrors := fun s =>
  ⟨fun ha _ hi => ⟨_, exec_of_not_rleActive ha hi, s.errorCompletion_failedPrecisely _ _⟩,
    fun h => ⟨_, exec_rleSinit_of_lt h, s.errorCompletion_failedPrecisely _ _⟩⟩

/-! ## LEN_RANGE -/

/-- The commands whose first check is that of LEN (R182). -/
theorem exec_of_lenOutOfRange {s : State} (h : s.lenOutOfRange = true) {i : Instr}
    (hi : i ∈ [.rleEnc, .rleDec, .bwtHist, .bwtCsort true, .bwtInv, .mtfEnc false, .mtfEnc true, .mtfDec false,
      .mtfDec true]) :
    exec i s = .next (s.errorCompletion .lenRange s.csr.len) := by
  fin_cases hi <;> exact congrArg Host.Outcome.next (if_pos h)

/-- RLE.SPUSH checks its stream first (R183). -/
theorem exec_rleSpush_of_lenOutOfRange {s : State} (ha : s.csr.status.rleActive = true)
    (h : s.lenOutOfRange = true) : exec .rleSpush s = .next (s.errorCompletion .lenRange s.csr.len) := by
  rw [exec, execRleSpush, ha, h]
  rfl

/-- Settles O41: the check of LEN is the first of each command that reads IBUF, but for RLE.SPUSH. -/
theorem lenRangeErrors : Obligations.LenRangeErrors := by
  intro s i h hi
  have hl := State.lenOutOfRange_of_lt h
  obtain hi | ⟨rfl, ha⟩ := hi
  · exact ⟨_, exec_of_lenOutOfRange hl hi, s.errorCompletion_failedPrecisely _ _⟩
  · exact ⟨_, exec_rleSpush_of_lenOutOfRange ha hl, s.errorCompletion_failedPrecisely _ _⟩

/-! ## OUT_OVERFLOW -/

/-- A required length of LEN fits ERRINFO (R181). -/
theorem overflowInfo_len (s : State) : overflowInfo s.len = s.csr.len := by
  refine BitVec.eq_of_toNat_eq ?_
  rw [overflowInfo_toNat]
  exact Nat.min_eq_left s.len_le_wordMax

/-- The imprecise error (R185): it is as any other, but that OBUF is forgotten before it. -/
theorem State.forgetObuf_errorCompletion_failed (s : State) (e : ErrCode) (v : Word) :
    Failed (s.forgetObuf.errorCompletion e v) e.toByte v.toNat ∧
      SameOperands s (s.forgetObuf.errorCompletion e v) ∧ SameStream s (s.forgetObuf.errorCompletion e v) ∧
      SameMtf s (s.forgetObuf.errorCompletion e v) ∧ SameLf s (s.forgetObuf.errorCompletion e v) ∧
      ∀ a, (s.forgetObuf.errorCompletion e v).obuf.read? a = none := by
  obtain ⟨hfailed, hoperands, hstream, hmtf, hlf, -⟩ := s.forgetObuf.errorCompletion_failedPrecisely e v
  exact ⟨hfailed, hoperands, hstream, hmtf, hlf, fun _ => rfl⟩

/-- The end of BWT.CSORT when its output does not fit. -/
theorem State.finishCsort_failedPrecisely {s : State} {ns : List Nat} (h : s.params.obufBytes < ns.sum)
    (consumed : Nat) : FailedPrecisely s (s.finishCsort ns consumed) 0x05#8 (min ns.sum 4294967295) := by
  rw [State.finishCsort, if_pos (State.outputTooLong_of_lt h), ← overflowInfo_toNat]
  exact s.errorCompletion_failedPrecisely _ _

/-- The end of RLE.ENC and RLE.DEC when their result does not fit. -/
theorem State.finishRle_failed {s : State} {out : List Byte} (h : s.params.obufBytes < out.length) :
    Failed (s.finishRle out) 0x05#8 (min out.length 4294967295) ∧ SameOperands s (s.finishRle out) ∧
      SameStream s (s.finishRle out) ∧ SameMtf s (s.finishRle out) ∧ SameLf s (s.finishRle out) ∧
      ∀ a, (s.finishRle out).obuf.read? a = none := by
  rw [State.finishRle, if_pos (State.outputTooLong_of_lt h), ← overflowInfo_toNat]
  exact s.forgetObuf_errorCompletion_failed _ _

theorem exec_bwtInv_of_overflow {s : State} (hl : s.InputFits) (hp : s.csr.primary.toNat < s.len)
    (ho : s.params.obufBytes < s.len) : exec .bwtInv s = .next (s.errorCompletion .outOverflow s.csr.len) := by
  have hrow : ¬ (0 < s.len ∧ s.len ≤ s.csr.primary.toNat) := fun ⟨_, hle⟩ => Nat.not_lt.2 hle hp
  rw [exec, execBwtInv, State.lenOutOfRange_of_inputFits hl, if_neg hrow, State.outputTooLong_of_lt ho,
    overflowInfo_len]
  rfl

theorem exec_mtfEnc_of_overflow {s : State} (i : Bool) (hl : s.InputFits) (ho : s.params.obufBytes < s.len) :
    exec (.mtfEnc i) s = .next (s.errorCompletion .outOverflow s.csr.len) := by
  rw [exec, execMtfEnc, State.lenOutOfRange_of_inputFits hl, State.outputTooLong_of_lt ho, overflowInfo_len]
  rfl

theorem exec_mtfDec_of_overflow {s : State} (i : Bool) (hl : s.InputFits) (ho : s.params.obufBytes < s.len) :
    exec (.mtfDec i) s = .next (s.errorCompletion .outOverflow s.csr.len) := by
  rw [exec, execMtfDec, State.lenOutOfRange_of_inputFits hl, State.outputTooLong_of_lt ho, overflowInfo_len]
  rfl

/-- Settles O44: the check of the output length is the last, and only RLE.ENC and RLE.DEC forget OBUF in it. -/
theorem outOverflowErrors : Obligations.OutOverflowErrors := by
  refine fun s => ⟨fun hl ho => ⟨fun hp => ?_, fun i => ⟨?_, ?_⟩⟩, fun h n hl hn ho => ?_, fun i n hl hi ho => ?_⟩
  · exact ⟨_, exec_bwtInv_of_overflow hl hp ho, s.errorCompletion_failedPrecisely _ _⟩
  · exact ⟨_, exec_mtfEnc_of_overflow i hl ho, s.errorCompletion_failedPrecisely _ _⟩
  · exact ⟨_, exec_mtfDec_of_overflow i hl ho, s.errorCompletion_failedPrecisely _ _⟩
  · cases h with
    | true =>
      rw [if_pos rfl] at hn
      rw [hn] at ho ⊢
      exact ⟨_, exec_bwtCsort_input (hl rfl), State.finishCsort_failedPrecisely ho _⟩
    | false =>
      rw [if_neg Bool.false_ne_true] at hn
      rw [hn] at ho ⊢
      exact ⟨_, exec_bwtCsort_hist s, State.finishCsort_failedPrecisely ho _⟩
  · obtain ⟨rfl, rfl⟩ | ⟨rfl, rfl⟩ := hi
    · exact ⟨_, exec_rleEnc_of_inputFits hl, State.finishRle_failed ho⟩
    · exact ⟨_, exec_rleDec_of_inputFits hl, State.finishRle_failed ho⟩

end Sys2Proof.Machine
end

section
/-! Precision (60_exceptions R185): an error completion is precise unless it is OUT_OVERFLOW of the words 0x10 and 0x11,
RLE.ENC and RLE.DEC, and those never overflow precisely. -/

namespace Sys2Proof.Machine

open Sys2Proof

/-- The words of RLE.ENC and RLE.DEC, whose overflow is imprecise (R185). -/
abbrev ImpreciseWord (w : Word) : Prop := w = 0x00000010#32 ∨ w = 0x00000011#32

theorem impreciseWord_iff_of_decode {w : Word} {i : Instr} (h : decode w = .ok i) :
    ImpreciseWord w ↔ i = .rleEnc ∨ i = .rleDec := by
  constructor
  · rintro (rfl | rfl)
    · exact .inl (Except.ok.inj (h.symm.trans (decodeInvertsEncode .rleEnc)))
    · exact .inr (Except.ok.inj (h.symm.trans (decodeInvertsEncode .rleDec)))
  · rintro (rfl | rfl)
    · exact .inl (encodeInvertsDecode w .rleEnc h).symm
    · exact .inr (encodeInvertsDecode w .rleDec h).symm

theorem not_impreciseWord_of_decodeError {w : Word} {e : DecodeError} (h : decode w = .error e) : ¬ ImpreciseWord w := by
  rintro (rfl | rfl) <;> cases h

/-- The errors of RLE.ENC and RLE.DEC are LEN_RANGE, which is precise, and the imprecise OUT_OVERFLOW. -/
theorem exec_rle_failed {i : Instr} {s t : State} (hi : i = .rleEnc ∨ i = .rleDec) (h : exec i s = .next t)
    (he : t.csr.status.err = true) :
    (∃ v, t = s.errorCompletion .lenRange v) ∨ ∃ v, t = s.forgetObuf.errorCompletion .outOverflow v := by
  obtain ⟨out, rfl⟩ : ∃ out, t = if s.lenOutOfRange then s.errorCompletion .lenRange s.csr.len
      else s.finishRle out := by
    obtain rfl | rfl := hi <;> cases h <;> exact ⟨_, rfl⟩
  rw [State.finishRle] at he ⊢
  split_ifs at he ⊢
  · exact .inl ⟨_, rfl⟩
  · exact .inr ⟨_, rfl⟩
  · cases he

/-- The ends of a completion step with an error: a precise one, which is no overflow of RLE.ENC or RLE.DEC, or the
imprecise one (R185). -/
theorem engineStep_failed {s t : State} (h : engineStep s = .next t) (he : t.csr.status.err = true) :
    (∃ e v, t = s.errorCompletion e v ∧ ¬ (e.toByte = 0x05#8 ∧ ImpreciseWord s.csr.cmd)) ∨
      (ImpreciseWord s.csr.cmd ∧ ∃ v, t = s.forgetObuf.errorCompletion .outOverflow v) := by
  cases hd : decode s.csr.cmd with
  | error e =>
    rw [engineStep_of_decodeError hd] at h
    cases h
    exact .inl ⟨_, _, rfl, fun ⟨_, hw⟩ => not_impreciseWord_of_decodeError hd hw⟩
  | ok i =>
    rw [engineStep_of_decode hd] at h
    rw [impreciseWord_iff_of_decode hd]
    by_cases hi : i = .rleEnc ∨ i = .rleDec
    · obtain ⟨v, rfl⟩ | ho := exec_rle_failed hi h he
      · exact .inl ⟨_, v, rfl, fun ⟨hcode, _⟩ => absurd hcode (by decide)⟩
      · exact .inr ⟨hi, ho⟩
    · obtain ⟨e, v, rfl⟩ | ⟨hi', -⟩ | hs := exec_cases h
      · exact .inl ⟨e, v, rfl, fun ⟨_, hi'⟩ => hi hi'⟩
      · exact absurd hi' hi
      · obtain ⟨u, o, c, rfl, -⟩ := hs.eq_complete
        cases he

/-- Settles O24: the two ends of a completion step with an error. -/
theorem errorsArePrecise : Obligations.ErrorsArePrecise := by
  intro s t h he
  obtain ⟨e, v, rfl, hprecise⟩ | ⟨hw, v, rfl⟩ := engineStep_failed h he
  · obtain ⟨hfailed, hoperands, hstream, hmtf, hlf, hobuf⟩ := s.errorCompletion_failedPrecisely e v
    exact ⟨hfailed, hoperands, hstream, hmtf, hlf, fun hx => absurd hx hprecise, fun _ => hobuf⟩
  · obtain ⟨hfailed, hoperands, hstream, hmtf, hlf, hobuf⟩ := s.forgetObuf_errorCompletion_failed .outOverflow v
    exact ⟨hfailed, hoperands, hstream, hmtf, hlf, fun _ => hobuf, fun hx => absurd ⟨rfl, hw⟩ hx⟩

end Sys2Proof.Machine
end

section
/-! Power-on and soft reset (70_reset_and_hazards R210–R212): what a soft reset does to the stores turns on BUSY alone. -/

namespace Sys2Proof.Machine

open Sys2Proof

/-! ## Soft reset (R211, R212) -/

/-- A CTRL write with bit 0 = 1 is a soft reset, BUSY or not (10_state R23). -/
theorem hostWrite_ctrl_of_bit {v : Word} (h : v.getLsbD 0 = true) (s : State) :
    hostWrite s .csr 0x008#34 4 v = (.ok 0#32, s.softReset) := by
  rw [hostWrite_csr s (loc := .ctrl) rfl rfl v, State.csrWrite, if_pos h]

/-- While idle a soft reset keeps the output buffer and the LF tables (R211). -/
theorem State.softReset_keeps_of_idle {s : State} (hb : s.csr.status.busy = false) :
    s.softReset.obuf = s.obuf ∧ s.softReset.hist = s.hist ∧ s.softReset.first = s.first ∧
      s.softReset.short = s.short := by
  simp [hb]

/-- While BUSY a soft reset leaves the output buffer and the LF tables unspecified (R212). -/
theorem State.softReset_forgets_of_busy {s : State} (hb : s.csr.status.busy = true) (i : Nat) :
    s.softReset.obuf.read? i = none ∧ s.softReset.hist.read? i = none ∧ s.softReset.first.read? i = none ∧
      s.softReset.short.read? i = none := by
  simp [hb]

/-- Settles O21: the write is a soft reset, whose registers and tables are those of power-on whatever BUSY is. -/
theorem softResetRestoresTheRegisters : Obligations.SoftResetRestoresTheRegisters := fun s _ h =>
  ⟨s.softReset, hostWrite_ctrl_of_bit h s, rfl, rfl, rfl, rfl, rfl, rfl, State.softReset_keeps_of_idle,
    State.softReset_forgets_of_busy⟩

/-! ## Power-on (R210) -/

/-- Settles O22: the registers and `irq` by evaluation, the entries of the identity tables, and empty stores. -/
theorem powerOnState : Obligations.PowerOnState :=
  ⟨rfl, rfl, fun i => ⟨identity_getElem i, identity_getElem i⟩, fun _ => ⟨rfl, rfl, rfl, rfl, rfl⟩⟩

end Sys2Proof.Machine
end
